-- ==== Sys2Proof/Word.lean ====
section
/-! DEFINITION. The word types of the machine (spec R13, R16, R85). -/

namespace Sys2Proof

/-- A byte, `Bits 8` (R16). -/
abbrev Byte := BitVec 8

/-- A 32-bit register, bus or address value (R12: `REG_W` = `ADDR_W` = 32). -/
abbrev Word := BitVec 32

/-- The number of byte addresses of the memory (R60). -/
abbrev addressCount : Nat := 2 ^ 32

end Sys2Proof
end

