-- ==== Sys2Proof/Config.lean ====
section
/-! DEFINITION. What an implementation fixes (R12) and the free values the spec leaves open. An opaque
constant here has no body, so no proof can see its value. -/

namespace Sys2Proof

/-- A run of byte addresses, `base` to `base + size - 1`. -/
structure Region where
  base : Nat
  size : Nat
  deriving DecidableEq, Repr

/-- The shape of `GOST_SBOX`: eight tables of sixteen 4-bit entries (R163). Nothing else is assumed of it. -/
abbrev GostSbox := Vector (Vector (BitVec 4) 16) 8

/-- The byte order of GOST words, `GOST_WORD_ENDIAN` (R12, R65). -/
inductive Endian where
  | little
  | big
  deriving DecidableEq, Repr

/-- The OPEN parameters of one hardware instance (R12). `memAdmit` lists the addresses where `MEM_ADMIT`
holds: every predicate on 32-bit addresses is such a list (assumption 4). -/
structure Params where
  /-- `REG_BASE`, the register block's address on the host bus (R23). -/
  regBase : Word
  /-- `MEM_ADMIT`, the bytes of memory that may be accessed (R60). -/
  memAdmit : List Region
  /-- `GOST_SBOX`, the eight GOST tables (R163). -/
  gostSbox : GostSbox
  deriving DecidableEq, Repr

/-- `REG_BASE` of this hardware: open (R12, D3). -/
opaque Config.regBase : Word

/-- `MEM_ADMIT` of this hardware: open (R12, D5). -/
opaque Config.memAdmit : List Region

/-- `GOST_SBOX` of this hardware: open (R12, R163, D20). -/
opaque Config.gostSbox : GostSbox

/-- Free value: what the byte at an address holds that nothing has written (R62, I13; assumption 6). -/
opaque Config.unwrittenByte : Nat → Byte

/-- Free value: the n-th byte drawn afresh by resets that abandon a command (R242, I14; assumption 7). -/
opaque Config.drawnByte : Nat → Byte

end Sys2Proof
end

