-- ==== Sys2Proof/Machine/Bits.lean ====
section
/-! DEFINITION. Bit selections and byte packing (R13 to R16). -/

namespace Sys2Proof.Machine

/-- `Permute(T, v, n)` (R14): output position j, counted from the most significant bit, holds
position `T[j]` of v, counted likewise from 1. -/
def permute {n : Nat} (m : Nat) (table : List Nat) (v : BitVec n) : BitVec m :=
  BitVec.ofNat m (table.foldl (fun acc i => 2 * acc + (v.getMsbD (i - 1)).toNat) 0)

/-- `cdiv(n, 8)`, on unbounded naturals (R15). -/
def cdiv8 (n : Nat) : Nat := (n + 7) / 8

/-- `BE(s)`: the first byte most significant (R16). -/
def beNat (bytes : List Byte) : Nat := bytes.foldl (fun acc b => 256 * acc + b.toNat) 0

/-- `LE(s)`: the first byte least significant (R16). -/
def leNat (bytes : List Byte) : Nat := bytes.foldr (fun b acc => b.toNat + 256 * acc) 0

/-- `toLE_k(v)`: k bytes, least significant first (R16). -/
def toLE : Nat → Nat → List Byte
  | 0, _ => []
  | k + 1, v => BitVec.ofNat 8 v :: toLE k (v / 256)

/-- `toBE_k(v)`: k bytes, most significant first (R16). -/
def toBE (k v : Nat) : List Byte := (toLE k v).reverse

end Sys2Proof.Machine
end

