-- ==== Sys2Proof/Machine/Des.lean ====
section
/-! DEFINITION. The DES datapath: key schedule (R100 to R107), round function (R123 to R129) and block
transform (R120 to R132). Table entries stand as the spec prints them, row by row. -/

namespace Sys2Proof.Machine

/-- PC-1 (R101). -/
def desPC1 : List Nat :=
  [57, 49, 41, 33, 25, 17,  9] ++
  [ 1, 58, 50, 42, 34, 26, 18] ++
  [10,  2, 59, 51, 43, 35, 27] ++
  [19, 11,  3, 60, 52, 44, 36] ++
  [63, 55, 47, 39, 31, 23, 15] ++
  [ 7, 62, 54, 46, 38, 30, 22] ++
  [14,  6, 61, 53, 45, 37, 29] ++
  [21, 13,  5, 28, 20, 12,  4]

/-- PC-2 (R105). -/
def desPC2 : List Nat :=
  [14, 17, 11, 24,  1,  5] ++
  [ 3, 28, 15,  6, 21, 10] ++
  [23, 19, 12,  4, 26,  8] ++
  [16,  7, 27, 20, 13,  2] ++
  [41, 52, 31, 37, 47, 55] ++
  [30, 40, 51, 45, 33, 48] ++
  [44, 49, 39, 56, 34, 53] ++
  [46, 42, 50, 36, 29, 32]

/-- SHIFT, for rounds 1 to 16 (R103). -/
def desShifts : List Nat := [1, 1, 2, 2, 2, 2, 2, 2, 1, 2, 2, 2, 2, 2, 2, 1]

/-- IP (R120). -/
def desIP : List Nat :=
  [58, 50, 42, 34, 26, 18, 10,  2] ++
  [60, 52, 44, 36, 28, 20, 12,  4] ++
  [62, 54, 46, 38, 30, 22, 14,  6] ++
  [64, 56, 48, 40, 32, 24, 16,  8] ++
  [57, 49, 41, 33, 25, 17,  9,  1] ++
  [59, 51, 43, 35, 27, 19, 11,  3] ++
  [61, 53, 45, 37, 29, 21, 13,  5] ++
  [63, 55, 47, 39, 31, 23, 15,  7]

/-- FP (R121). -/
def desFP : List Nat :=
  [40,  8, 48, 16, 56, 24, 64, 32] ++
  [39,  7, 47, 15, 55, 23, 63, 31] ++
  [38,  6, 46, 14, 54, 22, 62, 30] ++
  [37,  5, 45, 13, 53, 21, 61, 29] ++
  [36,  4, 44, 12, 52, 20, 60, 28] ++
  [35,  3, 43, 11, 51, 19, 59, 27] ++
  [34,  2, 42, 10, 50, 18, 58, 26] ++
  [33,  1, 41,  9, 49, 17, 57, 25]

/-- E (R123). -/
def desE : List Nat :=
  [32,  1,  2,  3,  4,  5] ++
  [ 4,  5,  6,  7,  8,  9] ++
  [ 8,  9, 10, 11, 12, 13] ++
  [12, 13, 14, 15, 16, 17] ++
  [16, 17, 18, 19, 20, 21] ++
  [20, 21, 22, 23, 24, 25] ++
  [24, 25, 26, 27, 28, 29] ++
  [28, 29, 30, 31, 32,  1]

/-- P (R128). -/
def desP : List Nat :=
  [16,  7, 20, 21, 29, 12, 28, 17] ++
  [ 1, 15, 23, 26,  5, 18, 31, 10] ++
  [ 2,  8, 24, 14, 32, 27,  3,  9] ++
  [19, 13, 30,  6, 22, 11,  4, 25]

/-- S1, the box of group 0 (R126). -/
def desS1 : List (List Nat) :=
  [[14,  4, 13,  1,  2, 15, 11,  8,  3, 10,  6, 12,  5,  9,  0,  7],
   [ 0, 15,  7,  4, 14,  2, 13,  1, 10,  6, 12, 11,  9,  5,  3,  8],
   [ 4,  1, 14,  8, 13,  6,  2, 11, 15, 12,  9,  7,  3, 10,  5,  0],
   [15, 12,  8,  2,  4,  9,  1,  7,  5, 11,  3, 14, 10,  0,  6, 13]]

/-- S2, the box of group 1 (R126). -/
def desS2 : List (List Nat) :=
  [[15,  1,  8, 14,  6, 11,  3,  4,  9,  7,  2, 13, 12,  0,  5, 10],
   [ 3, 13,  4,  7, 15,  2,  8, 14, 12,  0,  1, 10,  6,  9, 11,  5],
   [ 0, 14,  7, 11, 10,  4, 13,  1,  5,  8, 12,  6,  9,  3,  2, 15],
   [13,  8, 10,  1,  3, 15,  4,  2, 11,  6,  7, 12,  0,  5, 14,  9]]

/-- S3, the box of group 2 (R126). -/
def desS3 : List (List Nat) :=
  [[10,  0,  9, 14,  6,  3, 15,  5,  1, 13, 12,  7, 11,  4,  2,  8],
   [13,  7,  0,  9,  3,  4,  6, 10,  2,  8,  5, 14, 12, 11, 15,  1],
   [13,  6,  4,  9,  8, 15,  3,  0, 11,  1,  2, 12,  5, 10, 14,  7],
   [ 1, 10, 13,  0,  6,  9,  8,  7,  4, 15, 14,  3, 11,  5,  2, 12]]

/-- S4, the box of group 3 (R126). -/
def desS4 : List (List Nat) :=
  [[ 7, 13, 14,  3,  0,  6,  9, 10,  1,  2,  8,  5, 11, 12,  4, 15],
   [13,  8, 11,  5,  6, 15,  0,  3,  4,  7,  2, 12,  1, 10, 14,  9],
   [10,  6,  9,  0, 12, 11,  7, 13, 15,  1,  3, 14,  5,  2,  8,  4],
   [ 3, 15,  0,  6, 10,  1, 13,  8,  9,  4,  5, 11, 12,  7,  2, 14]]

/-- S5, the box of group 4 (R126). -/
def desS5 : List (List Nat) :=
  [[ 2, 12,  4,  1,  7, 10, 11,  6,  8,  5,  3, 15, 13,  0, 14,  9],
   [14, 11,  2, 12,  4,  7, 13,  1,  5,  0, 15, 10,  3,  9,  8,  6],
   [ 4,  2,  1, 11, 10, 13,  7,  8, 15,  9, 12,  5,  6,  3,  0, 14],
   [11,  8, 12,  7,  1, 14,  2, 13,  6, 15,  0,  9, 10,  4,  5,  3]]

/-- S6, the box of group 5 (R126). -/
def desS6 : List (List Nat) :=
  [[12,  1, 10, 15,  9,  2,  6,  8,  0, 13,  3,  4, 14,  7,  5, 11],
   [10, 15,  4,  2,  7, 12,  9,  5,  6,  1, 13, 14,  0, 11,  3,  8],
   [ 9, 14, 15,  5,  2,  8, 12,  3,  7,  0,  4, 10,  1, 13, 11,  6],
   [ 4,  3,  2, 12,  9,  5, 15, 10, 11, 14,  1,  7,  6,  0,  8, 13]]

/-- S7, the box of group 6 (R126). -/
def desS7 : List (List Nat) :=
  [[ 4, 11,  2, 14, 15,  0,  8, 13,  3, 12,  9,  7,  5, 10,  6,  1],
   [13,  0, 11,  7,  4,  9,  1, 10, 14,  3,  5, 12,  2, 15,  8,  6],
   [ 1,  4, 11, 13, 12,  3,  7, 14, 10, 15,  6,  8,  0,  5,  9,  2],
   [ 6, 11, 13,  8,  1,  4, 10,  7,  9,  5,  0, 15, 14,  2,  3, 12]]

/-- S8, the box of group 7 (R126). -/
def desS8 : List (List Nat) :=
  [[13,  2,  8,  4,  6, 15, 11,  1, 10,  9,  3, 14,  5,  0, 12,  7],
   [ 1, 15, 13,  8, 10,  3,  7,  4, 12,  5,  6, 11,  0, 14,  9,  2],
   [ 7, 11,  4,  1,  9, 12, 14,  2,  0,  6, 10, 13, 15,  3,  5,  8],
   [ 2,  1, 14,  7,  4, 10,  8, 13, 15, 12,  9,  0,  3,  5,  6, 11]]

/-- The eight S-boxes in group order (R126). -/
def desSboxes : List (List (List Nat)) := [desS1, desS2, desS3, desS4, desS5, desS6, desS7, desS8]

/-- Group g of the mixed half, `X[47-6g : 42-6g]` (R125). -/
def desGroup (x : BitVec 48) (g : Nat) : BitVec 6 := x.extractLsb' (42 - 6 * g) 6

/-- One S-box lookup: the outer two bits give the row, the inner four the column (R125). -/
def desLookup (box : List (List Nat)) (b : BitVec 6) : BitVec 4 :=
  let row := 2 * (b.getLsbD 5).toNat + (b.getLsbD 0).toNat
  let col := (b.extractLsb' 1 4).toNat
  BitVec.ofNat 4 ((box.getD row []).getD col 0)

/-- The eight lookups, group 0's output in bits 31..28 (R125 to R127). -/
def desSubstitute (x : BitVec 48) : BitVec 32 :=
  (List.range 8).foldl
    (fun so g => (so <<< 4) ||| (desLookup (desSboxes.getD g []) (desGroup x g)).setWidth 32) 0#32

/-- DES_F (R129): expand, mix with the subkey, substitute, permute. -/
def desF (r : BitVec 32) (k : BitVec 48) : BitVec 32 :=
  permute 32 desP (desSubstitute (permute 48 desE r ^^^ k))

/-- The subkeys of the rounds whose shift amounts are listed, from the halves C and D before them
(R104, R105): rotate both halves, then select with PC-2. -/
def desSubkeys : List Nat → BitVec 28 → BitVec 28 → List (BitVec 48)
  | [], _, _ => []
  | n :: ns, c, d =>
    permute 48 desPC2 (c.rotateLeft n ++ d.rotateLeft n) ::
      desSubkeys ns (c.rotateLeft n) (d.rotateLeft n)

/-- The halves `C0` and `D0` of a 64-bit UserKey (R101, R102). -/
def desHalves (k64 : BitVec 64) : BitVec 28 × BitVec 28 :=
  let pk := permute 56 desPC1 k64
  (pk.extractLsb' 28 28, pk.extractLsb' 0 28)

/-- The key schedule on the packed UserKey (R107): 16 subkeys, index 0 for round 1 (R106). -/
def desSchedule (k64 : BitVec 64) : List (BitVec 48) :=
  desSubkeys desShifts (desHalves k64).1 (desHalves k64).2

/-- DES_KS on the 8 key bytes, packed MSB-first (R63, R100, R107). -/
def desKeySchedule (key : List Byte) : List (BitVec 48) := desSchedule (BitVec.ofNat 64 (beNat key))

/-- One round (R130): both new halves come from the old pair. -/
def desRound (lr : BitVec 32 × BitVec 32) (k : BitVec 48) : BitVec 32 × BitVec 32 :=
  (lr.2, lr.1 ^^^ desF lr.2 k)

/-- The halves after IP (R120, R122). -/
def desSplit (b : BitVec 64) : BitVec 32 × BitVec 32 :=
  let ipb := permute 64 desIP b
  (ipb.extractLsb' 32 32, ipb.extractLsb' 0 32)

/-- DES_BLOCK (R132): IP, one round per subkey, and FP of the halves in right-then-left order (R131). -/
def desBlock (b : BitVec 64) (ks : List (BitVec 48)) : BitVec 64 :=
  let lr := ks.foldl desRound (desSplit b)
  permute 64 desFP (lr.2 ++ lr.1)

/-- The block function of DES_ECB on bytes: packed and unpacked MSB-first (R64, R185). -/
def desBlockBytes (ks : List (BitVec 48)) (blk : List Byte) : List Byte :=
  toBE 8 (desBlock (BitVec.ofNat 64 (beNat blk)) ks).toNat

end Sys2Proof.Machine
end

