-- ==== Sys2Proof/Machine/Gost.lean ====
section
/-! DEFINITION. The GOST datapath: subkey partition (R150 to R152), round function (R153 to R156) and block
transform (R157 to R162). The S-box and the byte order are arguments (R163, R65). -/

namespace Sys2Proof.Machine

/-- The byte order of GOST words on this hardware: little-endian (R65, D17; assumption 5). -/
def gostWordEndian : Endian := .little

/-- A 32-bit word from its four bytes (R65). -/
def gostWord (e : Endian) (bytes : List Byte) : BitVec 32 :=
  match e with
  | .little => BitVec.ofNat 32 (leNat bytes)
  | .big => BitVec.ofNat 32 (beNat bytes)

/-- The four bytes of a 32-bit word (R65). -/
def gostBytes (e : Endian) (w : BitVec 32) : List Byte :=
  match e with
  | .little => toLE 4 w.toNat
  | .big => toBE 4 w.toNat

/-- The eight subkeys: consecutive 4-byte slices of the key, in order (R151, R152). -/
def gostSubkeys (e : Endian) (key : List Byte) : List (BitVec 32) :=
  (List.range 8).map fun j => gostWord e ((key.drop (4 * j)).take 4)

/-- An S-box lookup, `GOST_SBOX[n][x]` (R154, R163). -/
def gostLookup (t : GostSbox) (n : Fin 8) (x : BitVec 4) : BitVec 4 := (t.get n).get x.toFin

/-- GOST_f (R156): add the subkey modulo 2^32, substitute each nibble in its own place, no rotation
(R153 to R155). -/
def gostF (t : GostSbox) (x k : BitVec 32) : BitVec 32 :=
  (List.finRange 8).foldl
    (fun y n => y ||| ((gostLookup t n ((x + k).extractLsb' (4 * n.val) 4)).setWidth 32 <<< (4 * n.val)))
    0#32

/-- Two elementary updates, of a and then of b from the a just written (R158, R159). -/
def gostPair (t : GostSbox) (ks : List (BitVec 32)) (ab : BitVec 32 × BitVec 32) (ij : Nat × Nat) :
    BitVec 32 × BitVec 32 :=
  let a := ab.1 ^^^ gostF t ab.2 (ks.getD ij.1 0)
  (a, ab.2 ^^^ gostF t a (ks.getD ij.2 0))

/-- The subkey indices of the 12 forward pairs, r = 0, 2, …, 22 (R158, C1). -/
def gostForward : List (Nat × Nat) := (List.range 12).map fun i => ((2 * i) % 8, (2 * i + 1) % 8)

/-- The subkey indices of the 4 reverse pairs, r = 24, 26, 28, 30 (R159). -/
def gostReverse : List (Nat × Nat) :=
  (List.range 4).map fun i => (31 - (24 + 2 * i), 31 - (24 + 2 * i + 1))

/-- The halves after the 32 elementary updates (R158 to R160). -/
def gostUpdates (t : GostSbox) (ks : List (BitVec 32)) (ab : BitVec 32 × BitVec 32) :
    BitVec 32 × BitVec 32 :=
  (gostForward ++ gostReverse).foldl (gostPair t ks) ab

/-- GOST_BLOCK (R162): split, 32 updates, one swap, and the new pair's bytes. -/
def gostBlock (e : Endian) (t : GostSbox) (ks : List (BitVec 32)) (blk : List Byte) : List Byte :=
  let ab := gostUpdates t ks (gostWord e (blk.take 4), gostWord e ((blk.drop 4).take 4))
  gostBytes e ab.2 ++ gostBytes e ab.1

end Sys2Proof.Machine
end

