-- ==== Sys2Proof/Machine/State.lean ====
section
/-! DEFINITION. The state of the machine as plain data (R45), with the model's own fields for the
interleaving and the host's side, and the state right after reset (R240). -/

namespace Sys2Proof.Machine

/-- The sequencer state (R22). -/
inductive Seq where
  | idle
  | busy
  deriving DecidableEq, Repr

/-- The model faults (R224): a host action whose hardware effect the spec leaves undefined. The host's
access records one in `State.faults` and has no other effect; no step of the machine ends in one, since
the run goes on (assumption 8). Recording is safe: a claim about such a run must first show it has none. -/
inductive Fault where
  /-- Recorded by a register access that is not a 32-bit access at a multiple of 4 (R67). Safe. -/
  | regAccessFault
  /-- Recorded by a host access, while seq = BUSY, to a byte of a latched range (R246). Safe. -/
  | bufferHazard
  /-- Recorded by a host memory access where `MEM_ADMIT` is false (R196). Safe. -/
  | hostBusFault
  deriving DecidableEq, Repr

/-- Why the model has no meaning for an instruction. -/
inductive Refusal where
  /-- For an arm of `exec` that has no meaning yet; no arm is such. Safe: the machine stops. -/
  | notModelled (mnemonic : String)
  deriving DecidableEq, Repr

/-- The latched command (R39). -/
structure Latched where
  op : BitVec 4
  rsvdZero : Bool
  keyAddr : Word
  keyLen : Word
  srcAddr : Word
  srcLen : Word
  dstAddr : Word
  deriving DecidableEq, Repr

/-- The latch after a completion and after reset: all fields zero, RSVD_ZERO false (R191, R240). -/
def Latched.zero : Latched :=
  { op := 0, rsvdZero := false, keyAddr := 0, keyLen := 0, srcAddr := 0, srcLen := 0, dstAddr := 0 }

/-- The nine registers of the register block (R23). -/
inductive Reg where
  | cmd
  | status
  | keyAddr
  | keyLen
  | srcAddr
  | srcLen
  | dstAddr
  | outLen
  | intEn
  deriving DecidableEq, Repr

/-- The size of a register transaction (R67). -/
inductive AccessSize where
  | byte
  | half
  | word
  deriving DecidableEq, Repr

/-- One thing a host does: a bus transaction (R86), the loop `POLL` (R89), or waiting for the IRQ line
(R219, 95_test_vectors.md P3 step 5). -/
inductive HostOp where
  /-- The register transaction `(W, offset, data)`. -/
  | regWrite (size : AccessSize) (offset : BitVec 6) (data : Word)
  /-- The register transaction `(R, offset)`. -/
  | regRead (size : AccessSize) (offset : BitVec 6)
  /-- The memory transaction `(W, addr, data)`. -/
  | memWrite (addr : Word) (data : Byte)
  /-- The memory transaction `(R, addr)`. -/
  | memRead (addr : Word)
  /-- `POLL <REG>, <mask>, <val>`: read the register until `(v & mask) = val`. -/
  | poll (r : Reg) (mask val : Word)
  /-- Wait until IRQ = 1. -/
  | waitIrq
  deriving DecidableEq, Repr

/-- Who takes the next step: one of the two agents (R20), or the platform's reset (R240). -/
inductive Mover where
  | host
  | engine
  | reset
  deriving DecidableEq, Repr

/-- The machine's state: the tuple of R45, the instance's parameters (R12), and the model's own fields
`draws`, `sched`, `prog`, `hostV` and `hostBytes`. Plain data. -/
structure State where
  /-- The sequencer (R22); STATUS.BUSY is `seq = busy` (R26). -/
  seq : Seq
  /-- The latched command (R39). -/
  lat : Latched
  /-- STATUS.DONE (R27). -/
  done : Bool
  /-- STATUS.OVR (R29). -/
  ovr : Bool
  /-- STATUS.ERRCODE (R30). -/
  errcode : BitVec 4
  /-- KEY_ADDR (R31). -/
  keyAddr : Word
  /-- KEY_LEN (R32). -/
  keyLen : Word
  /-- SRC_ADDR (R33). -/
  srcAddr : Word
  /-- SRC_LEN (R34). -/
  srcLen : Word
  /-- DST_ADDR (R35). -/
  dstAddr : Word
  /-- OUT_LEN (R36). -/
  outLen : Word
  /-- INT_EN.DONE_IE (R37). -/
  doneIe : Bool
  /-- The written bytes of memory, by rising address (R42, R60); an unlisted byte is unwritten (R62). -/
  mem : List Host.Cell
  /-- The model faults recorded so far, oldest first (R45, R224). -/
  faults : List Fault
  /-- The parameters of this hardware instance (R12, R41); no step changes them (assumption 4). -/
  params : Params
  /-- The model's: how many free bytes have been drawn (R242; assumption 7). -/
  draws : Nat
  /-- The model's: who moves in the steps to come (R20; assumption 1). -/
  sched : List Mover
  /-- The model's: what the host has still to do (R88; assumption 2). -/
  prog : List HostOp
  /-- The model's: the host variable `v` that a register read sets (R88; assumption 2). -/
  hostV : Word
  /-- The model's: the bytes the host's memory reads have returned, oldest first (R88; assumption 2). -/
  hostBytes : List Byte
  deriving DecidableEq, Repr

/-- The machine right after the first reset (R240): every register zero, seq IDLE, no byte of memory
written (R62), no fault recorded, and nothing yet for the host to do. -/
def State.reset : State :=
  { seq := .idle, lat := Latched.zero, done := false, ovr := false, errcode := 0,
    keyAddr := 0, keyLen := 0, srcAddr := 0, srcLen := 0, dstAddr := 0, outLen := 0, doneIe := false,
    mem := [], faults := [],
    params :=
      { regBase := Config.regBase, memAdmit := Config.memAdmit, gostSbox := Config.gostSbox },
    draws := 0, sched := [], prog := [], hostV := 0, hostBytes := [] }

end Sys2Proof.Machine
end

