-- ==== Sys2Proof/Machine/Flags.lean ====
section
/-! DEFINITION. The flags and codes: STATUS (R25 to R30), the error codes (R211), INT_EN (R37) and IRQ (R43). -/

namespace Sys2Proof.Machine

/-- The error codes a command can complete with (R211). -/
inductive ErrCode where
  | success
  | illegalCmd
  | invalidKeyLength
  | range
  | overlap
  deriving DecidableEq, Repr

/-- The number of an error code in STATUS.ERRCODE (R211). -/
def errNumber : ErrCode → BitVec 4
  | .success => 0
  | .illegalCmd => 1
  | .invalidKeyLength => 2
  | .range => 3
  | .overlap => 4

/-- STATUS.BUSY (R26). -/
def busy (s : State) : Bool := s.seq == .busy

/-- STATUS.ERR: set exactly when ERRCODE is not zero (R28). -/
def err (s : State) : Bool := s.errcode != 0#4

/-- The STATUS word (R25, R195): reserved bits 31:12 and 7:4 read zero. -/
def statusWord (s : State) : Word :=
  0#20 ++ s.errcode ++ 0#4 ++ BitVec.ofBool s.ovr ++ BitVec.ofBool (err s) ++ BitVec.ofBool s.done
    ++ BitVec.ofBool (busy s)

/-- The INT_EN word (R37, R195). -/
def intEnWord (s : State) : Word := 0#31 ++ BitVec.ofBool s.doneIe

/-- The IRQ output (R43, R219). -/
def irq (s : State) : Bool := s.doneIe && s.done

end Sys2Proof.Machine
end

