-- ==== Sys2Proof/Syntax.lean ====
section
/-! DEFINITION. The instructions: the two commands of spec/opcode_table.json. A command carries no operand
fields; its operands are the latched parameter registers (R80, R85). -/

namespace Sys2Proof

/-- One constructor per row of the opcode table. -/
inductive Instr where
  /-- DES_ECB_ENCRYPT (R186). -/
  | desEcbEncrypt
  /-- GOST_ECB_ENCRYPT (R187). -/
  | gostEcbEncrypt
  deriving DecidableEq, Repr

end Sys2Proof
end

