-- ==== Sys2Proof/WellFormed.lean ====
section
/-! DEFINITION. Well-formedness: of an instruction, of a CMD word, and of a register transaction. -/

namespace Sys2Proof

/-- Every instruction is well formed: a command has no operand fields that could be out of range (R80, R85). -/
def Instr.wellFormed : Instr → Bool
  | .desEcbEncrypt => true
  | .gostEcbEncrypt => true

/-- The two checks on a CMD word that names an operation: RSVD (bits 31:4) is zero (R82) and OP
(bits 3:0) is one of the two assigned values (R81). -/
def wellFormedWord (w : Word) : Bool :=
  w.extractLsb' 4 28 == 0#28 && (w.extractLsb' 0 4 == 1#4 || w.extractLsb' 0 4 == 2#4)

/-- The two checks on a register transaction: it moves 4 bytes, at an offset that is a multiple of 4 (R67). -/
def wellFormedAccess (bytes : Nat) (offset : BitVec 6) : Bool :=
  bytes == 4 && offset.toNat % 4 == 0

end Sys2Proof
end

