-- ==== Sys2Proof/Decode.lean ====
section
/-! DEFINITION. The decoder of CMD words (R80 to R84, R87), total on every word and refusing by name, and
after it the encoder, written from the same table (R81). -/

namespace Sys2Proof

/-- What a CMD word decodes to (R83). The two ILLEGAL cases say which check refused the word; the
hardware reports both alike, as ILLEGAL_CMD (R84, R212). -/
inductive Decoded where
  /-- The word names a command. -/
  | instr (i : Instr)
  /-- ILLEGAL: one of bits 31:4 is set (R82). -/
  | reservedBits
  /-- ILLEGAL: OP is 0x0 or 0x3 to 0xF (R81). -/
  | reservedOp (op : BitVec 4)
  deriving DecidableEq, Repr

/-- The OP field, bits 3:0 (R80). -/
def opField (w : Word) : BitVec 4 := w.extractLsb' 0 4

/-- The RSVD field, bits 31:4 (R80). -/
def rsvdField (w : Word) : BitVec 28 := w.extractLsb' 4 28

/-- Decoding from OP and from whether RSVD was zero, which is all the latch keeps of a word (R83, R39). -/
def decodeFields (op : BitVec 4) (rsvdZero : Bool) : Decoded :=
  if rsvdZero then
    if op = 1#4 then .instr .desEcbEncrypt
    else if op = 2#4 then .instr .gostEcbEncrypt
    else .reservedOp op
  else .reservedBits

/-- The decoder, total on 32-bit words (R83). -/
def decode (w : Word) : Decoded := decodeFields (opField w) (rsvdField w == 0#28)

/-- The instruction a word names, none where the decoder refuses it. -/
def Decoded.instr? : Decoded → Option Instr
  | .instr i => some i
  | .reservedBits => none
  | .reservedOp _ => none

/-- The decoder on a row's bits as spec/opcode_table.json numbers them: a command is one 32-bit word
(R87), and a value with a bit above it names none. -/
def decodeTableWord (nbits w : Nat) : Option Instr :=
  if w % 2 ^ nbits < 2 ^ 32 then (decode (BitVec.ofNat 32 (w % 2 ^ nbits))).instr? else none

/-- The OP value of each command (R81). -/
def opOf : Instr → BitVec 4
  | .desEcbEncrypt => 0x1#4
  | .gostEcbEncrypt => 0x2#4

/-- The CMD word of each command: its OP in bits 3:0 under 28 zero bits (R80, R81). -/
def encode (i : Instr) : Word := 0#28 ++ opOf i

end Sys2Proof
end

