-- ==== Sys2Proof/Machine/Operands.lean ====
section
/-! DEFINITION. The operands of a command (R85): the byte ranges its latch names (R78), and the predicates
on ranges that its checks use (R79). -/

namespace Sys2Proof.Machine

/-- A byte range `[addr, addr + len)` on unbounded naturals (R79). -/
structure Range where
  addr : Nat
  len : Nat
  deriving DecidableEq, Repr

/-- Whether an address lies in a range. -/
def Range.has (r : Range) (a : Nat) : Bool := decide (r.addr ≤ a) && decide (a < r.addr + r.len)

/-- `overlap` (R79): two non-empty ranges that share an address. -/
def overlap (r q : Range) : Bool :=
  decide (0 < r.len) && decide (0 < q.len) && decide (r.addr < q.addr + q.len)
    && decide (q.addr < r.addr + r.len)

/-- Whether a region of `MEM_ADMIT` holds an address. -/
def inRegion (g : Region) (a : Nat) : Bool := decide (g.base ≤ a) && decide (a < g.base + g.size)

/-- `MEM_ADMIT(a)` (R60). -/
def memAdmits (p : Params) (a : Nat) : Bool := p.memAdmit.any fun g => inRegion g a

/-- Whether `MEM_ADMIT` holds at n addresses from a on. -/
def admitsFrom (p : Params) : Nat → Nat → Bool
  | 0, _ => true
  | n + 1, a => memAdmits p a && admitsFrom p n (a + 1)

/-- `admitted` (R79): empty, or below 2^32 with every byte in `MEM_ADMIT`. -/
def admitted (p : Params) (r : Range) : Bool :=
  r.len == 0 || (decide (r.addr + r.len ≤ addressCount) && admitsFrom p r.len r.addr)

/-- The key range of a latched command (R78). -/
def keyRange (l : Latched) : Range := { addr := l.keyAddr.toNat, len := l.keyLen.toNat }

/-- The message range of a latched command (R78). -/
def srcRange (l : Latched) : Range := { addr := l.srcAddr.toNat, len := l.srcLen.toNat }

/-- The output length of a message length, `cdiv(n, 8) · 8` (R181, R190). -/
def paddedLen (n : Nat) : Nat := cdiv8 n * 8

/-- The output range of a latched command (R78). -/
def dstRange (l : Latched) : Range := { addr := l.dstAddr.toNat, len := paddedLen l.srcLen.toNat }

/-- Whether an address lies in one of the three latched ranges (R246). -/
def inLatchedRange (l : Latched) (a : Nat) : Bool :=
  (keyRange l).has a || (srcRange l).has a || (dstRange l).has a

/-- The key length a command needs, in bytes (R190, R213). -/
def keyBytes : Instr → Nat
  | .desEcbEncrypt => 8
  | .gostEcbEncrypt => 32

/-- A register's offset in the block (R23). -/
def regOffset : Reg → BitVec 6
  | .cmd => 0x00
  | .status => 0x04
  | .keyAddr => 0x08
  | .keyLen => 0x0C
  | .srcAddr => 0x10
  | .srcLen => 0x14
  | .dstAddr => 0x18
  | .outLen => 0x1C
  | .intEn => 0x20

/-- The register at an offset, none at the reserved ones 0x24 to 0x3C (R23, R38). -/
def regAt (offset : BitVec 6) : Option Reg :=
  match offset.toNat / 4 with
  | 0 => some .cmd
  | 1 => some .status
  | 2 => some .keyAddr
  | 3 => some .keyLen
  | 4 => some .srcAddr
  | 5 => some .srcLen
  | 6 => some .dstAddr
  | 7 => some .outLen
  | 8 => some .intEn
  | _ => none

/-- The bus address of an offset of the block, `REG_BASE + offset` (R23, R86). -/
def busAddress (p : Params) (offset : BitVec 6) : Word := p.regBase + offset.setWidth 32

/-- The offset a bus address has in the block, none outside its 64 bytes (R23). -/
def blockOffset (p : Params) (addr : Word) : Option (BitVec 6) :=
  if (addr - p.regBase).toNat < 64 then some ((addr - p.regBase).setWidth 6) else none

/-- The bytes a register transaction moves. -/
def accessBytes : AccessSize → Nat
  | .byte => 1
  | .half => 2
  | .word => 4

/-- A register access the hardware defines: 32 bits at a multiple of 4 (R67). -/
def accessLegal (size : AccessSize) (offset : BitVec 6) : Bool :=
  wellFormedAccess (accessBytes size) offset

end Sys2Proof.Machine
end

