-- ==== Sys2Proof/Machine/Ops.lean ====
section
/-! DEFINITION. The named operations on memory and on the state: byte reads and writes (R60, R62), command
acceptance and drop (R188, R189), completion (R191), the error completion that stands for taking an
exception (R217), its acknowledgement that stands for the return (R222), model faults (R224), and the
draws a reset leaves behind (R242). -/

namespace Sys2Proof.Machine

/-- The written byte at an address, none where nothing has been written. -/
def findByte : List Host.Cell → Nat → Option Byte
  | [], _ => none
  | c :: cs, a => if c.1 = a then some c.2 else findByte cs a

/-- The byte a read returns: the one last written (R72), else the free value the platform's memory holds
there (R62). -/
def readByte (m : List Host.Cell) (a : Nat) : Byte := (findByte m a).getD (Config.unwrittenByte a)

/-- Write one byte, keeping the addresses strictly rising. -/
def writeByte : List Host.Cell → Nat → Byte → List Host.Cell
  | [], a, b => [(a, b)]
  | c :: cs, a, b =>
    if a < c.1 then (a, b) :: c :: cs
    else if a = c.1 then (a, b) :: cs
    else c :: writeByte cs a b

/-- `MemRead(addr, n)` (R17). -/
def readBytes (m : List Host.Cell) : Nat → Nat → List Byte
  | _, 0 => []
  | a, n + 1 => readByte m a :: readBytes m (a + 1) n

/-- `MemWrite(addr, |s|, s)` (R17). -/
def writeBytes (m : List Host.Cell) : Nat → List Byte → List Host.Cell
  | _, [] => m
  | a, b :: bs => writeBytes (writeByte m a b) (a + 1) bs

/-- The addresses of a memory rise strictly from `lo` on and lie below 2^32. -/
def wfFrom : Nat → List Host.Cell → Bool
  | _, [] => true
  | lo, c :: cs => decide (lo ≤ c.1) && decide (c.1 < addressCount) && wfFrom (c.1 + 1) cs

/-- The canonical form of a memory (R60): addresses strictly rising and below 2^32. An unlisted address
holds no written byte, so no entry can repeat it (assumption 6). -/
def Memory.wf (m : List Host.Cell) : Bool := wfFrom 0 m

/-- The state with the current turn of the interleaving used up (R20). -/
def takeTurn (s : State) : State := { s with sched := s.sched.tail }

/-- Record model faults (R224). -/
def recordFaults (fs : List Fault) (s : State) : State := { s with faults := s.faults ++ fs }

/-- Store bytes at an address. -/
def storeBytes (a : Nat) (bs : List Byte) (s : State) : State := { s with mem := writeBytes s.mem a bs }

/-- Accept a CMD write (R188): latch the word's fields and the parameter registers, clear DONE, ERRCODE
and OUT_LEN, and go BUSY. -/
def acceptCommand (w : Word) (s : State) : State :=
  { s with
    lat :=
      { op := opField w, rsvdZero := rsvdField w == 0#28, keyAddr := s.keyAddr, keyLen := s.keyLen,
        srcAddr := s.srcAddr, srcLen := s.srcLen, dstAddr := s.dstAddr }
    done := false
    errcode := 0
    outLen := 0
    seq := .busy }

/-- Drop a CMD write while BUSY (R189). -/
def dropCommand (s : State) : State := { s with ovr := true }

/-- `complete(code, olen)` (R191). -/
def complete (code : ErrCode) (olen : Nat) (s : State) : State :=
  { s with
    errcode := errNumber code
    outLen := BitVec.ofNat 32 olen
    done := true
    seq := .idle
    lat := Latched.zero }

/-- `raise Error(c)` (R17, R217): the whole of "trap entry" for this hardware. -/
def raiseError (code : ErrCode) (s : State) : State := complete code 0 s

/-- A write of w to STATUS clears DONE and OVR where bits 1 and 3 of w are set (R194). With both set it
is the acknowledgement that stands for a return (R222). -/
def clearStatus (w : Word) (s : State) : State :=
  { s with
    done := s.done && !w.getLsbD 1
    ovr := s.ovr && !w.getLsbD 3 }

/-- What the engine finds in the latch (R190): its decoding from OP and RSVD_ZERO. -/
def latchedCommand (s : State) : Decoded := decodeFields s.lat.op s.lat.rsvdZero

/-- The first check that a decoded command fails, in the order of R216; none if it passes them all. -/
def commandError (p : Params) (need : Nat) (l : Latched) : Option ErrCode :=
  if l.keyLen.toNat ≠ need then some .invalidKeyLength
  else if !admitted p (keyRange l) || !admitted p (srcRange l) || !admitted p (dstRange l) then
    some .range
  else if overlap (dstRange l) (keyRange l) || overlap (dstRange l) (srcRange l) then some .overlap
  else none

/-- Whether the latched command would pass every check (R242, R216). -/
def latchedPasses (s : State) : Bool :=
  match (latchedCommand s).instr? with
  | some i => commandError s.params (keyBytes i) s.lat == none
  | none => false

/-- n bytes drawn afresh, the first being draw number k (R242). -/
def drawnBytes : Nat → Nat → List Byte
  | _, 0 => []
  | k, n + 1 => Config.drawnByte k :: drawnBytes (k + 1) n

/-- Abandon the running command (R242): if it would have passed its checks, every byte of its output
range becomes a fresh free value. -/
def abandonCommand (s : State) : State :=
  if busy s && latchedPasses s then
    { s with
      mem := writeBytes s.mem (dstRange s.lat).addr (drawnBytes s.draws (dstRange s.lat).len)
      draws := s.draws + (dstRange s.lat).len }
  else s

/-- The registers, sequencer and latch at their reset values (R240); memory, faults and parameters keep
what they hold. -/
def clearRegisters (s : State) : State :=
  { s with
    seq := .idle
    lat := Latched.zero
    done := false
    ovr := false
    errcode := 0
    keyAddr := 0
    keyLen := 0
    srcAddr := 0
    srcLen := 0
    dstAddr := 0
    outLen := 0
    doneIe := false }

/-- The reset event (R240, R242, R243). -/
def resetEvent (s : State) : State := clearRegisters (abandonCommand s)

/-- Who moves next: the head of the interleaving, and once it is used up the engine while BUSY, else the
host (R20, R250; assumption 1). -/
def nextMover (s : State) : Mover :=
  match s.sched with
  | m :: _ => m
  | [] => if busy s then .engine else .host

end Sys2Proof.Machine
end

