-- ==== Sys2Proof/Machine/Ecb.lean ====
section
/-! DEFINITION. The ECB driver (R180, R185) and the two commands over it (R186, R187, R190). -/

namespace Sys2Proof.Machine

/-- The message zero-filled to whole blocks (R180). -/
def zeroFill (msg : List Byte) : List Byte :=
  msg ++ List.replicate (paddedLen msg.length - msg.length) 0#8

/-- Block i of a zero-filled message, `m[8i..8i+8)` (R180). -/
def ecbBlockOf (msg : List Byte) (i : Nat) : List Byte := ((zeroFill msg).drop (8 * i)).take 8

/-- ECB (R180): each block on its own, the outputs in block order (R183). -/
def ecb (blk : List Byte → List Byte) (msg : List Byte) : List Byte :=
  (List.range (cdiv8 msg.length)).flatMap fun i => blk (ecbBlockOf msg i)

/-- DES_ECB (R185). -/
def desEcb (key msg : List Byte) : List Byte := ecb (desBlockBytes (desKeySchedule key)) msg

/-- GOST_ECB (R185). -/
def gostEcb (e : Endian) (t : GostSbox) (key msg : List Byte) : List Byte :=
  ecb (gostBlock e t (gostSubkeys e key)) msg

/-- The engine's step for a decoded command (R190): the checks in their order, then read the key and the
message, encrypt, write the output and complete. -/
def runCommand (need : Nat) (cipher : List Byte → List Byte → List Byte) (s : State) : State :=
  match commandError s.params need s.lat with
  | some c => raiseError c s
  | none =>
    let key := readBytes s.mem (keyRange s.lat).addr (keyRange s.lat).len
    let msg := readBytes s.mem (srcRange s.lat).addr (srcRange s.lat).len
    complete .success (dstRange s.lat).len (storeBytes (dstRange s.lat).addr (cipher key msg) s)

/-- The engine's step for a word that is no command (R84, R212). -/
def runIllegal (s : State) : State := raiseError .illegalCmd s

/-- DES_ECB_ENCRYPT (R186). -/
def execDesEcbEncrypt (s : State) : Host.Outcome State Fault Refusal :=
  .next (runCommand (keyBytes .desEcbEncrypt) desEcb s)

/-- GOST_ECB_ENCRYPT (R187). -/
def execGostEcbEncrypt (s : State) : Host.Outcome State Fault Refusal :=
  .next (runCommand (keyBytes .gostEcbEncrypt) (gostEcb gostWordEndian s.params.gostSbox) s)

end Sys2Proof.Machine
end

