-- ==== Sys2Proof/Machine/Dispatch.lean ====
section
/-! DEFINITION. The dispatch of instructions to their meanings. -/

namespace Sys2Proof.Machine

def exec (i : Instr) (s : State) : Host.Outcome State Fault Refusal :=
  match i with
  | .desEcbEncrypt => Sys2Proof.Machine.execDesEcbEncrypt s
  | .gostEcbEncrypt => Sys2Proof.Machine.execGostEcbEncrypt s

end Sys2Proof.Machine
end

