-- ==== Sys2Proof/Machine/HostAccess.lean ====
section
/-! DEFINITION. What a host does in one step: register reads and writes (R194, R195), memory reads and
writes (R196), `POLL` (R89) and waiting for IRQ; and the host notation of R88 and R89. -/

namespace Sys2Proof.Machine

/-- A 32-bit write of w to a register (R194). -/
def writeReg (r : Reg) (w : Word) (s : State) : State :=
  match r with
  | .cmd => if busy s then dropCommand s else acceptCommand w s
  | .status => clearStatus w s
  | .keyAddr => { s with keyAddr := w }
  | .keyLen => { s with keyLen := w }
  | .srcAddr => { s with srcAddr := w }
  | .srcLen => { s with srcLen := w }
  | .dstAddr => { s with dstAddr := w }
  | .outLen => s
  | .intEn => { s with doneIe := w.getLsbD 0 }

/-- The value a 32-bit read of a register returns (R195). -/
def readReg (r : Reg) (s : State) : Word :=
  match r with
  | .cmd => 0
  | .status => statusWord s
  | .keyAddr => s.keyAddr
  | .keyLen => s.keyLen
  | .srcAddr => s.srcAddr
  | .srcLen => s.srcLen
  | .dstAddr => s.dstAddr
  | .outLen => s.outLen
  | .intEn => intEnWord s

/-- A 32-bit write at an offset: reserved offsets ignore it (R38, R194). -/
def writeOffset (offset : BitVec 6) (w : Word) (s : State) : State :=
  match regAt offset with
  | some r => writeReg r w s
  | none => s

/-- A 32-bit read at an offset: reserved offsets read zero (R38, R195). -/
def readOffset (offset : BitVec 6) (s : State) : Word :=
  match regAt offset with
  | some r => readReg r s
  | none => 0

/-- The host's register write: one the hardware does not define records `RegAccessFault` (R67, R224). -/
def hostRegWrite (size : AccessSize) (offset : BitVec 6) (w : Word) (s : State) : State :=
  if accessLegal size offset then writeOffset offset w s else recordFaults [.regAccessFault] s

/-- The host's register read: the value goes to `v` (R88, R195), or `RegAccessFault` is recorded. -/
def hostRegRead (size : AccessSize) (offset : BitVec 6) (s : State) : State :=
  if accessLegal size offset then { s with hostV := readOffset offset s }
  else recordFaults [.regAccessFault] s

/-- The model faults of a host memory access (R196, R224): `HostBusFault` where `MEM_ADMIT` is false, and
`BufferHazard` in a latched range while BUSY (R246). Where both hold, both are recorded (assumption 9). -/
def memAccessFaults (a : Nat) (s : State) : List Fault :=
  (if memAdmits s.params a then [] else [.hostBusFault]) ++
    (if busy s && inLatchedRange s.lat a then [.bufferHazard] else [])

/-- The host's write of one byte (R196). -/
def hostMemWrite (addr : Word) (b : Byte) (s : State) : State :=
  match memAccessFaults addr.toNat s with
  | [] => storeBytes addr.toNat [b] s
  | fs => recordFaults fs s

/-- The host's read of one byte (R196). -/
def hostMemRead (addr : Word) (s : State) : State :=
  match memAccessFaults addr.toNat s with
  | [] => { s with hostBytes := s.hostBytes ++ [readByte s.mem addr.toNat] }
  | fs => recordFaults fs s

/-- What a host operation does in one step. -/
def hostAct (op : HostOp) (s : State) : State :=
  match op with
  | .regWrite size offset w => hostRegWrite size offset w s
  | .regRead size offset => hostRegRead size offset s
  | .memWrite addr b => hostMemWrite addr b s
  | .memRead addr => hostMemRead addr s
  | .poll r _ _ => { s with hostV := readReg r s }
  | .waitIrq => s

/-- Whether a host operation is over after a step that led to s: a poll repeats until the value it read
matches (R89), a wait until IRQ = 1, and everything else takes one step. -/
def hostOpDone (op : HostOp) (s : State) : Bool :=
  match op with
  | .regWrite _ _ _ => true
  | .regRead _ _ => true
  | .memWrite _ _ => true
  | .memRead _ => true
  | .poll _ mask val => s.hostV &&& mask == val
  | .waitIrq => irq s

/-- The host's step: its next operation, which stays at the head of its program until it is over. A host
whose program has ended does nothing. -/
def hostStep (s : State) : State :=
  match s.prog with
  | [] => s
  | op :: rest =>
    if hostOpDone op (hostAct op s) then { hostAct op s with prog := rest } else hostAct op s

/-- `WREG <REG>, <imm32>` (R88). -/
def wreg (r : Reg) (w : Word) : List HostOp := [.regWrite .word (regOffset r) w]

/-- `RREG <REG>` (R88). -/
def rreg (r : Reg) : List HostOp := [.regRead .word (regOffset r)]

/-- `WMEM <addr>, <bytes>` (R88): one write a byte, each a host step of its own (R196; assumption 22), at
addresses that go on at 0 after 2^32 - 1 (assumption 23). -/
def wmem : Word → List Byte → List HostOp
  | _, [] => []
  | a, b :: bs => .memWrite a b :: wmem (a + 1) bs

/-- `RMEM <addr>, <n>` (R88): one read a byte, each a host step of its own (R196; assumption 22), at
addresses that go on at 0 after 2^32 - 1 (assumption 23). -/
def rmem : Word → Nat → List HostOp
  | _, 0 => []
  | a, n + 1 => .memRead a :: rmem (a + 1) n

/-- `START <mnemonic>` (R89). -/
def startCommand (i : Instr) : List HostOp := wreg .cmd (encode i)

/-- `POLL <REG>, <mask>, <val>` (R89). -/
def pollReg (r : Reg) (mask val : Word) : List HostOp := [.poll r mask val]

/-- `WAITDONE` (R89). -/
def waitDone : List HostOp := pollReg .status 0x00000002 0x00000002

/-- `ACK` (R89). -/
def ackCompletion : List HostOp := wreg .status 0x0000000A

/-- `SETUP k, kl, s, sl, d` (R89). -/
def setup (k kl s sl d : Word) : List HostOp :=
  wreg .keyAddr k ++ wreg .keyLen kl ++ wreg .srcAddr s ++ wreg .srcLen sl ++ wreg .dstAddr d

end Sys2Proof.Machine
end

