-- ==== Sys2Proof/Machine/Step.lean ====
section
/-! DEFINITION. One step of the machine: the agent whose turn it is moves (R20). -/

namespace Sys2Proof.Machine

/-- The engine's step (R190): decode the latched command and run it, or complete with ILLEGAL_CMD. -/
def engineStep (s : State) : Host.Outcome State Fault Refusal :=
  match latchedCommand s with
  | .instr i => exec i s
  | .reservedBits => .next (runIllegal s)
  | .reservedOp _ => .next (runIllegal s)

/-- One step: the host's next operation, the engine's step, which it has only while BUSY (R20), or the
platform's reset. -/
def step (s : State) : Host.Outcome State Fault Refusal :=
  match nextMover s with
  | .host => .next (hostStep (takeTurn s))
  | .engine => if busy s then engineStep (takeTurn s) else .next (takeTurn s)
  | .reset => .next (resetEvent (takeTurn s))

/-- The state in which the next step runs the command whose word's low nbits are w: that word accepted
with the parameter registers as they stand (R188), and the engine to move (assumption 15). -/
def State.withFetchWord (s : State) (nbits w : Nat) : State :=
  { acceptCommand (BitVec.ofNat 32 (w % 2 ^ nbits)) s with sched := .engine :: s.sched }

end Sys2Proof.Machine
end

