-- ==== Sys2Proof/Safety.lean ====
section
/-! DEFINITION. What counts as a good state and a final run, in the terms claims use. -/

namespace Sys2Proof.Machine

/-- A run is final here (R251): the engine is idle, the host's program has ended, no fault is recorded. -/
def State.final (s : State) : Prop := s.seq = .idle ∧ s.prog = [] ∧ s.faults = []

/-- The invariant every step keeps: memory is in canonical form; ERRCODE is one of 0 to 4 (R211); OUT_LEN
is a multiple of 8 (R181), zero while an error code stands (R36) and while BUSY (R248); ERRCODE and DONE
are zero while BUSY (R188); and the latch is zero while IDLE (R39). -/
structure State.Inv (s : State) : Prop where
  memCanonical : Memory.wf s.mem = true
  errcodeKnown : s.errcode.toNat ≤ 4
  outLenWhole : s.outLen.toNat % 8 = 0
  outLenOnError : s.errcode ≠ 0 → s.outLen = 0
  busyClear : s.seq = .busy → s.done = false ∧ s.errcode = 0 ∧ s.outLen = 0
  idleLatch : s.seq = .idle → s.lat = Latched.zero

/-- What the hardware holds: the state without the model's record of the interleaving and of the host. -/
def State.hardware (s : State) : State := { s with sched := [], prog := [], hostV := 0, hostBytes := [] }

end Sys2Proof.Machine
end

