-- ==== Sys2Proof/Certificates/Slice0/Obligations.lean ====
section
/-! DEFINITION. The statements for the provers. `Claims` names three notions of the spec in the spec's own
words, apart from the operations of the model. -/

open Sys2Proof Sys2Proof.Machine

namespace Sys2Proof.Claims

/-- The effect of an error completion, exactly (R217). -/
def failedWith (c : BitVec 4) (s : State) : State :=
  { s with errcode := c, outLen := 0, done := true, seq := .idle, lat := Latched.zero }

/-- A range that is not admitted: not empty, and wrapping past 2^32 - 1 or holding a byte where
`MEM_ADMIT` is false (R214). -/
def unadmitted (p : Params) (addr len : Nat) : Prop :=
  0 < len ∧ (2 ^ 32 < addr + len ∨ ∃ i, i < len ∧ memAdmits p (addr + i) = false)

/-- A byte lies in a range. -/
def within (addr len a : Nat) : Prop := addr ≤ a ∧ a < addr + len

/-- The latched command would pass every check (R216): a decoded word, its key length, three admitted
ranges, and an output range that shares no byte with the key or the message. -/
def passes (i : Instr) (s : State) : Prop :=
  latchedCommand s = .instr i ∧ s.lat.keyLen.toNat = keyBytes i ∧
    ¬ unadmitted s.params s.lat.keyAddr.toNat s.lat.keyLen.toNat ∧
    ¬ unadmitted s.params s.lat.srcAddr.toNat s.lat.srcLen.toNat ∧
    ¬ unadmitted s.params s.lat.dstAddr.toNat ((s.lat.srcLen.toNat + 7) / 8 * 8) ∧
    ∀ a, within s.lat.dstAddr.toNat ((s.lat.srcLen.toNat + 7) / 8 * 8) a →
      ¬ within s.lat.keyAddr.toNat s.lat.keyLen.toNat a ∧
      ¬ within s.lat.srcAddr.toNat s.lat.srcLen.toNat a

/-- The host's turn, with one operation at the head of its program. -/
def hostDoes (s : State) (op : HostOp) : Prop := nextMover s = .host ∧ s.prog.head? = some op

/-- A host access to this address is a hazard: a byte of a latched range of a running command (R246). -/
def hazardAt (s : State) (a : Nat) : Prop :=
  s.seq = .busy ∧
    (within s.lat.keyAddr.toNat s.lat.keyLen.toNat a ∨
      within s.lat.srcAddr.toNat s.lat.srcLen.toNat a ∨
      within s.lat.dstAddr.toNat ((s.lat.srcLen.toNat + 7) / 8 * 8) a)

/-- The next step is one of the four events that clear IRQ (R220). -/
def lowersIrq (s : State) : Prop :=
  (∃ w : Word, w.getLsbD 1 = true ∧ hostDoes s (.regWrite .word 0x04 w)) ∨
    (s.seq = .idle ∧ ∃ w, hostDoes s (.regWrite .word 0x00 w)) ∨
    (∃ w : Word, w.getLsbD 0 = false ∧ hostDoes s (.regWrite .word 0x20 w)) ∨
    nextMover s = .reset

/-- The all-zero S-box (R164). -/
def zeroBox : GostSbox := Vector.replicate 8 (Vector.replicate 16 0#4)

/-- The identity S-box (R164). -/
def identityBox : GostSbox := Vector.ofFn fun _ => Vector.ofFn fun x => BitVec.ofFin x

end Sys2Proof.Claims

open Sys2Proof.Claims

/-! ### Encoding -/

/-- R81, R83: a word decodes to a command exactly when it is that command's word. -/
def Obligations.DecodeMatchesTable : Prop :=
  ∀ (w : Word) (i : Instr), decode w = .instr i ↔ w = encode i

/-- R81 to R83, 95_test_vectors.md L2.9: words written out from the table decode as it says. -/
def Obligations.SampleWordsDecode : Prop :=
  decode 0x00000001 = .instr .desEcbEncrypt ∧ decode 0x00000002 = .instr .gostEcbEncrypt ∧
    decode 0x00000000 = .reservedOp 0 ∧ decode 0x00000003 = .reservedOp 3 ∧
    decode 0x0000000F = .reservedOp 15 ∧ decode 0x00000011 = .reservedBits ∧
    decode 0x80000002 = .reservedBits ∧ encode .desEcbEncrypt = 0x00000001 ∧
    encode .gostEcbEncrypt = 0x00000002

/-- R84: a word that is no command is accepted like any other, and its engine step completes with
ILLEGAL_CMD and changes no memory, whatever memory holds. -/
def Obligations.IllegalWordCompletesWithError : Prop :=
  ∀ (s : State) (w : Word), s.seq = .idle → w ≠ 0x00000001 → w ≠ 0x00000002 →
    (∀ i, decode w ≠ .instr i) ∧
    (hostAct (.regWrite .word 0x00 w) s).seq = .busy ∧
    ∃ t, engineStep (hostAct (.regWrite .word 0x00 w) s) = .next t ∧
      t = failedWith 1 (hostAct (.regWrite .word 0x00 w) s) ∧ t.mem = s.mem

/-! ### The step -/

/-- R190: at the engine's turn while BUSY, the step is `exec` of the command decoded from the latch, on
the state with that turn used up. -/
def Obligations.StepRunsLatchedCommand : Prop :=
  ∀ (s : State) (i : Instr), nextMover s = .engine → s.seq = .busy → latchedCommand s = .instr i →
    step s = exec i (takeTurn s) ∧ takeTurn s = { s with sched := s.sched.tail }

/-- R188, R190: a command's word put where the engine takes its next command runs as that command. -/
def Obligations.FetchedWordRuns : Prop :=
  ∀ (s : State) (i : Instr),
    step (s.withFetchWord 32 (encode i).toNat) = exec i (acceptCommand (encode i) s)

/-- R20, R230: while IDLE the engine has no step, and a final run stays as it is. (That a turn given to
an engine without a step is used up, and who moves when no turn is left, are assumptions 1 and 3.) -/
def Obligations.IdleEngineChangesNothing : Prop :=
  (∀ s : State, s.seq = .idle → nextMover s = .engine →
    step s = .next { s with sched := s.sched.tail }) ∧
  (∀ s : State, s.final → s.sched = [] → step s = .next s)

/-- R20, R88, R219: at the host's turn the step is the host's next operation, which is then over unless it
is a `POLL` or a wait for IRQ whose condition does not hold. (That an access which records a fault is over
too is assumption 11, and that one look at IRQ is a host step is assumption 16.) -/
def Obligations.HostTurnRunsOperation : Prop :=
  ∀ (s : State) (op : HostOp) (rest : List HostOp), nextMover s = .host → s.prog = op :: rest →
    ((∀ r mask val, op ≠ .poll r mask val) → op ≠ .waitIrq →
      step s = .next { hostAct op (takeTurn s) with prog := rest }) ∧
    (op = .waitIrq → step s = .next (if irq s then { takeTurn s with prog := rest } else takeTurn s))

/-! ### Command protocol and registers -/

/-- R188: a CMD write while IDLE. -/
def Obligations.CommandAccepted : Prop :=
  ∀ (s : State) (w : Word), s.seq = .idle →
    hostAct (.regWrite .word 0x00 w) s =
      { s with
        lat :=
          { op := w.extractLsb' 0 4, rsvdZero := decide (w.extractLsb' 4 28 = 0#28),
            keyAddr := s.keyAddr, keyLen := s.keyLen, srcAddr := s.srcAddr, srcLen := s.srcLen,
            dstAddr := s.dstAddr }
        done := false
        errcode := 0
        outLen := 0
        seq := .busy } ∧
    irq (hostAct (.regWrite .word 0x00 w) s) = false

/-- R189: a CMD write while BUSY. -/
def Obligations.CommandDroppedWhileBusy : Prop :=
  ∀ (s : State) (w : Word), s.seq = .busy →
    hostAct (.regWrite .word 0x00 w) s = { s with ovr := true }

/-- R194: the effect of a 32-bit write at every offset, and what a STATUS write finds while BUSY. -/
def Obligations.RegisterWriteEffects : Prop :=
  ∀ (s : State) (w : Word),
    hostAct (.regWrite .word 0x00 w) s =
      (if s.seq = .idle then acceptCommand w s else { s with ovr := true }) ∧
    hostAct (.regWrite .word 0x04 w) s =
      { s with
        done := if w.getLsbD 1 then false else s.done
        ovr := if w.getLsbD 3 then false else s.ovr } ∧
    (s.Inv → s.seq = .busy →
      hostAct (.regWrite .word 0x04 w) s = { s with ovr := if w.getLsbD 3 then false else s.ovr }) ∧
    hostAct (.regWrite .word 0x08 w) s = { s with keyAddr := w } ∧
    hostAct (.regWrite .word 0x0C w) s = { s with keyLen := w } ∧
    hostAct (.regWrite .word 0x10 w) s = { s with srcAddr := w } ∧
    hostAct (.regWrite .word 0x14 w) s = { s with srcLen := w } ∧
    hostAct (.regWrite .word 0x18 w) s = { s with dstAddr := w } ∧
    hostAct (.regWrite .word 0x1C w) s = s ∧
    hostAct (.regWrite .word 0x20 w) s = { s with doneIe := w.getLsbD 0 } ∧
    ∀ o : BitVec 6, 0x24 ≤ o.toNat → o.toNat % 4 = 0 → hostAct (.regWrite .word o w) s = s

/-- R195: what a 32-bit read at every offset returns; it changes nothing else. -/
def Obligations.RegisterReadValues : Prop :=
  ∀ s : State,
    hostAct (.regRead .word 0x00) s = { s with hostV := 0 } ∧
    hostAct (.regRead .word 0x04) s =
      { s with
        hostV :=
          (s.errcode.setWidth 32 <<< 8) ||| ((BitVec.ofBool s.ovr).setWidth 32 <<< 3)
            ||| ((BitVec.ofBool (decide (s.errcode ≠ 0))).setWidth 32 <<< 2)
            ||| ((BitVec.ofBool s.done).setWidth 32 <<< 1)
            ||| (BitVec.ofBool (decide (s.seq = .busy))).setWidth 32 } ∧
    hostAct (.regRead .word 0x08) s = { s with hostV := s.keyAddr } ∧
    hostAct (.regRead .word 0x0C) s = { s with hostV := s.keyLen } ∧
    hostAct (.regRead .word 0x10) s = { s with hostV := s.srcAddr } ∧
    hostAct (.regRead .word 0x14) s = { s with hostV := s.srcLen } ∧
    hostAct (.regRead .word 0x18) s = { s with hostV := s.dstAddr } ∧
    hostAct (.regRead .word 0x1C) s = { s with hostV := s.outLen } ∧
    hostAct (.regRead .word 0x20) s = { s with hostV := (BitVec.ofBool s.doneIe).setWidth 32 } ∧
    ∀ o : BitVec 6, 0x24 ≤ o.toNat → o.toNat % 4 = 0 →
      hostAct (.regRead .word o) s = { s with hostV := 0 }

/-- R43, R219: IRQ is a level, the enable and the pending bit together; a write to INT_EN moves it at once,
reading STATUS does not, and it is 0 after reset. -/
def Obligations.InterruptLevel : Prop :=
  ∀ (s : State) (w : Word), (irq s = true ↔ s.doneIe = true ∧ s.done = true) ∧
    (irq (hostAct (.regWrite .word 0x20 w) s) = true ↔ w.getLsbD 0 = true ∧ s.done = true) ∧
    irq (hostAct (.regRead .word 0x04) s) = irq s ∧ irq State.reset = false

/-- R67: a register access that is not 32 bits at a multiple of 4 records `RegAccessFault` and has no
effect, and one that is records no fault. (That such a read leaves the host's variable as it was is
assumption 11.) -/
def Obligations.UndefinedRegisterAccess : Prop :=
  ∀ (s : State) (z : AccessSize) (o : BitVec 6) (w : Word),
    (z ≠ .word ∨ o.toNat % 4 ≠ 0 →
      hostAct (.regWrite z o w) s = { s with faults := s.faults ++ [.regAccessFault] } ∧
      hostAct (.regRead z o) s = { s with faults := s.faults ++ [.regAccessFault] }) ∧
    (z = .word → o.toNat % 4 = 0 →
      (hostAct (.regWrite z o w) s).faults = s.faults ∧
      (hostAct (.regRead z o) s).faults = s.faults)

/-- R23, R86: an offset of the block and its bus address name each other. -/
def Obligations.BlockAddressing : Prop :=
  ∀ (p : Params) (addr : Word) (o : BitVec 6),
    blockOffset p addr = some o ↔ addr = p.regBase + o.setWidth 32

/-- R89: one step of `POLL` reads the register into v and repeats until it matches. -/
def Obligations.PollRepeatsUntilMatch : Prop :=
  ∀ (s : State) (r : Reg) (mask val : Word) (rest : List HostOp), s.prog = .poll r mask val :: rest →
    hostStep s =
      { s with
        hostV := readReg r s
        prog := if readReg r s &&& mask = val then rest else s.prog }

/-- R88, R89: the host notation and the pseudo-instructions expand to the transactions the spec lists.
(That each byte of a `WMEM` or `RMEM` line is a host step of its own is assumption 22, and that addr+i goes
on at 0 after 2^32 - 1 is assumption 23.) -/
def Obligations.PseudoInstructionsExpand : Prop :=
  startCommand .desEcbEncrypt = [.regWrite .word 0x00 0x00000001] ∧
  startCommand .gostEcbEncrypt = [.regWrite .word 0x00 0x00000002] ∧
  waitDone = [.poll .status 0x00000002 0x00000002] ∧
  ackCompletion = [.regWrite .word 0x04 0x0000000A] ∧
  (∀ k kl a al d : Word, setup k kl a al d =
    [.regWrite .word 0x08 k, .regWrite .word 0x0C kl, .regWrite .word 0x10 a, .regWrite .word 0x14 al,
      .regWrite .word 0x18 d]) ∧
  (∀ (r : Reg) (w : Word), wreg r w = [.regWrite .word (regOffset r) w] ∧
    rreg r = [.regRead .word (regOffset r)]) ∧
  [Reg.cmd, .status, .keyAddr, .keyLen, .srcAddr, .srcLen, .dstAddr, .outLen, .intEn].map regOffset =
    [0x00, 0x04, 0x08, 0x0C, 0x10, 0x14, 0x18, 0x1C, 0x20] ∧
  (∀ (a : Word) (bytes : List Byte), (wmem a bytes).length = bytes.length ∧
    ∀ i, i < bytes.length →
      (wmem a bytes)[i]? = some (.memWrite (a + BitVec.ofNat 32 i) (bytes.getD i 0))) ∧
  ∀ (a : Word) (n : Nat), (rmem a n).length = n ∧
    ∀ i, i < n → (rmem a n)[i]? = some (.memRead (a + BitVec.ofNat 32 i))

/-! ### Host memory accesses -/

/-- R196, R246, R224: a host access to a byte that is admitted and not in a latched range of a running
command reads or writes that byte and no other; any other access records its model faults and has no effect.
(Where both faults apply the statement leaves their order in the list open: it is assumption 9. That a
latched range past 2^32 does not reach low addresses is assumption 10, that a faulting read returns nothing
is assumption 11, and that the ranges of a command that will fail are hazards too is assumption 21.) -/
def Obligations.HostMemoryAccess : Prop :=
  ∀ (s : State) (addr : Word) (b : Byte),
    (memAdmits s.params addr.toNat = true → ¬ hazardAt s addr.toNat →
      hostAct (.memRead addr) s = { s with hostBytes := s.hostBytes ++ [readByte s.mem addr.toNat] } ∧
      hostAct (.memWrite addr b) s = { s with mem := (hostAct (.memWrite addr b) s).mem } ∧
      ∀ a, readByte (hostAct (.memWrite addr b) s).mem a =
        if a = addr.toNat then b else readByte s.mem a) ∧
    (memAdmits s.params addr.toNat = false → ¬ hazardAt s addr.toNat →
      hostAct (.memRead addr) s = { s with faults := s.faults ++ [.hostBusFault] } ∧
      hostAct (.memWrite addr b) s = { s with faults := s.faults ++ [.hostBusFault] }) ∧
    (memAdmits s.params addr.toNat = true → hazardAt s addr.toNat →
      hostAct (.memRead addr) s = { s with faults := s.faults ++ [.bufferHazard] } ∧
      hostAct (.memWrite addr b) s = { s with faults := s.faults ++ [.bufferHazard] }) ∧
    (memAdmits s.params addr.toNat = false → hazardAt s addr.toNat →
      ∃ fs, fs.Perm [Fault.hostBusFault, .bufferHazard] ∧
        hostAct (.memRead addr) s = { s with faults := s.faults ++ fs } ∧
        hostAct (.memWrite addr b) s = { s with faults := s.faults ++ fs })

/-! ### Reset -/

/-- R240, R243: what the reset event leaves, from any state; memory is unchanged while IDLE. -/
def Obligations.ResetEventValues : Prop :=
  ∀ s : State,
    (nextMover s = .reset → step s = .next (resetEvent (takeTurn s))) ∧
    (resetEvent s).seq = .idle ∧ (resetEvent s).lat = Latched.zero ∧ (resetEvent s).done = false ∧
    (resetEvent s).ovr = false ∧ (resetEvent s).errcode = 0 ∧ (resetEvent s).keyAddr = 0 ∧
    (resetEvent s).keyLen = 0 ∧ (resetEvent s).srcAddr = 0 ∧ (resetEvent s).srcLen = 0 ∧
    (resetEvent s).dstAddr = 0 ∧ (resetEvent s).outLen = 0 ∧ (resetEvent s).doneIe = false ∧
    irq (resetEvent s) = false ∧ (resetEvent s).faults = s.faults ∧
    (resetEvent s).params = s.params ∧ (∀ o, readOffset o (resetEvent s) = 0) ∧
    (s.seq = .idle → (resetEvent s).mem = s.mem)

/-- R240: the machine right after reset reads zero at every offset, is idle and signals nothing. (That no
byte is listed, that no fault is recorded, and the values of the model's own fields are assumptions 1, 2,
4, 6 and 7.) -/
def Obligations.PowerOnState : Prop :=
  (∀ o, readOffset o State.reset = 0) ∧ State.reset.seq = .idle ∧ State.reset.lat = Latched.zero ∧
    irq State.reset = false ∧ State.reset.mem = [] ∧ State.reset.faults = []

/-- R242: a reset while BUSY makes each byte of the output range a fresh free draw if the command would
have passed its checks, and otherwise changes no memory. (The draws are numbered by the model's counter
`draws`, assumption 7; the statement holds for every value of it.) -/
def Obligations.ResetAbandonsCommand : Prop :=
  ∀ s : State, s.seq = .busy →
    (∀ i, passes i s →
      (resetEvent s).draws = s.draws + (s.lat.srcLen.toNat + 7) / 8 * 8 ∧
      ∀ a, (within s.lat.dstAddr.toNat ((s.lat.srcLen.toNat + 7) / 8 * 8) a →
          readByte (resetEvent s).mem a =
            Config.drawnByte (s.draws + (a - s.lat.dstAddr.toNat))) ∧
        (¬ within s.lat.dstAddr.toNat ((s.lat.srcLen.toNat + 7) / 8 * 8) a →
          readByte (resetEvent s).mem a = readByte s.mem a)) ∧
    ((∀ i, ¬ passes i s) → (resetEvent s).mem = s.mem)

/-! ### The commands -/

/-- R186, R190: DES_ECB_ENCRYPT with a key of 8 bytes, admitted ranges and no overlap writes the
encryption of the message and completes; nothing else changes. -/
def Obligations.DesCommandEncrypts : Prop :=
  ∀ s : State, s.lat.keyLen = 8 →
    ¬ unadmitted s.params s.lat.keyAddr.toNat 8 →
    ¬ unadmitted s.params s.lat.srcAddr.toNat s.lat.srcLen.toNat →
    ¬ unadmitted s.params s.lat.dstAddr.toNat ((s.lat.srcLen.toNat + 7) / 8 * 8) →
    (∀ a, within s.lat.dstAddr.toNat ((s.lat.srcLen.toNat + 7) / 8 * 8) a →
      ¬ within s.lat.keyAddr.toNat 8 a ∧ ¬ within s.lat.srcAddr.toNat s.lat.srcLen.toNat a) →
    ∃ t out, exec .desEcbEncrypt s = .next t ∧
      out = desEcb (readBytes s.mem s.lat.keyAddr.toNat 8)
        (readBytes s.mem s.lat.srcAddr.toNat s.lat.srcLen.toNat) ∧
      out.length = (s.lat.srcLen.toNat + 7) / 8 * 8 ∧
      t = { s with errcode := 0, outLen := t.outLen, done := true, seq := .idle, lat := Latched.zero, mem := t.mem } ∧
      t.outLen.toNat = (s.lat.srcLen.toNat + 7) / 8 * 8 ∧
      ∀ a, readByte t.mem a =
        if s.lat.dstAddr.toNat ≤ a ∧ a < s.lat.dstAddr.toNat + (s.lat.srcLen.toNat + 7) / 8 * 8 then
          out.getD (a - s.lat.dstAddr.toNat) 0
        else readByte s.mem a

/-- R187, R190: GOST_ECB_ENCRYPT with a key of 32 bytes, admitted ranges and no overlap writes the
encryption of the message under the instance's S-box (R163) and completes; nothing else changes. -/
def Obligations.GostCommandEncrypts : Prop :=
  ∀ s : State, s.lat.keyLen = 32 →
    ¬ unadmitted s.params s.lat.keyAddr.toNat 32 →
    ¬ unadmitted s.params s.lat.srcAddr.toNat s.lat.srcLen.toNat →
    ¬ unadmitted s.params s.lat.dstAddr.toNat ((s.lat.srcLen.toNat + 7) / 8 * 8) →
    (∀ a, within s.lat.dstAddr.toNat ((s.lat.srcLen.toNat + 7) / 8 * 8) a →
      ¬ within s.lat.keyAddr.toNat 32 a ∧ ¬ within s.lat.srcAddr.toNat s.lat.srcLen.toNat a) →
    ∃ t out, exec .gostEcbEncrypt s = .next t ∧
      out = gostEcb .little s.params.gostSbox (readBytes s.mem s.lat.keyAddr.toNat 32)
        (readBytes s.mem s.lat.srcAddr.toNat s.lat.srcLen.toNat) ∧
      out.length = (s.lat.srcLen.toNat + 7) / 8 * 8 ∧
      t = { s with errcode := 0, outLen := t.outLen, done := true, seq := .idle, lat := Latched.zero, mem := t.mem } ∧
      t.outLen.toNat = (s.lat.srcLen.toNat + 7) / 8 * 8 ∧
      ∀ a, readByte t.mem a =
        if s.lat.dstAddr.toNat ≤ a ∧ a < s.lat.dstAddr.toNat + (s.lat.srcLen.toNat + 7) / 8 * 8 then
          out.getD (a - s.lat.dstAddr.toNat) 0
        else readByte s.mem a

/-- R213: a key length that is not exactly 8 or 32, respectively, is an error, whatever the message
length and every other operand. -/
def Obligations.KeyLengthError : Prop :=
  ∀ s : State,
    (s.lat.keyLen ≠ 8 → exec .desEcbEncrypt s = .next (failedWith 2 s)) ∧
    (s.lat.keyLen ≠ 32 → exec .gostEcbEncrypt s = .next (failedWith 2 s))

/-- R214: with the key length accepted, a key, message or output range that is not admitted is an error;
an empty range is always admitted. -/
def Obligations.RangeError : Prop :=
  ∀ (i : Instr) (s : State), s.lat.keyLen.toNat = keyBytes i →
    (unadmitted s.params s.lat.keyAddr.toNat s.lat.keyLen.toNat ∨
      unadmitted s.params s.lat.srcAddr.toNat s.lat.srcLen.toNat ∨
      unadmitted s.params s.lat.dstAddr.toNat ((s.lat.srcLen.toNat + 7) / 8 * 8)) →
    exec i s = .next (failedWith 3 s)

/-- R215: with every range admitted, an output range that shares a byte with the key or the message is an
error. -/
def Obligations.OverlapError : Prop :=
  ∀ (i : Instr) (s : State) (a : Nat), s.lat.keyLen.toNat = keyBytes i →
    ¬ unadmitted s.params s.lat.keyAddr.toNat s.lat.keyLen.toNat →
    ¬ unadmitted s.params s.lat.srcAddr.toNat s.lat.srcLen.toNat →
    ¬ unadmitted s.params s.lat.dstAddr.toNat ((s.lat.srcLen.toNat + 7) / 8 * 8) →
    within s.lat.dstAddr.toNat ((s.lat.srcLen.toNat + 7) / 8 * 8) a →
    (within s.lat.keyAddr.toNat s.lat.keyLen.toNat a ∨
      within s.lat.srcAddr.toNat s.lat.srcLen.toNat a) →
    exec i s = .next (failedWith 4 s)

/-- R216: the code of an engine step is the first error that applies, and a failing command neither
changes a memory byte nor depends on one. -/
def Obligations.ErrorPriority : Prop :=
  ∀ s : State,
    ((∀ i, latchedCommand s ≠ .instr i) →
      ∀ m, engineStep { s with mem := m } = .next (failedWith 1 { s with mem := m })) ∧
    (∀ i, latchedCommand s = .instr i → ∃ t, engineStep s = .next t ∧
      t.errcode =
        (if s.lat.keyLen.toNat ≠ keyBytes i then 2
        else if ¬ (admitted s.params (keyRange s.lat) ∧ admitted s.params (srcRange s.lat) ∧
            admitted s.params (dstRange s.lat)) then 3
        else if overlap (dstRange s.lat) (keyRange s.lat) ∨ overlap (dstRange s.lat) (srcRange s.lat)
          then 4
        else 0) ∧
      (t.errcode ≠ 0 → ∀ m, engineStep { s with mem := m } = .next { t with mem := m }))

/-- R191, R217: how every engine step completes. -/
def Obligations.EngineStepCompletes : Prop :=
  ∀ s : State, ∃ t, engineStep s = .next t ∧ t.done = true ∧ t.seq = .idle ∧ t.lat = Latched.zero ∧
    t.ovr = s.ovr ∧ t.doneIe = s.doneIe ∧ irq t = s.doneIe ∧ t.errcode.toNat ≤ 4 ∧
    (t.errcode ≠ 0 → t = failedWith t.errcode s)

/-- R186 to R191, R78, R218: the frame of both commands. Besides the flags, OUT_LEN, the sequencer and
the latch, a command changes only bytes of its output range, and none if it fails. -/
def Obligations.CommandFrame : Prop :=
  ∀ (i : Instr) (s t : State), exec i s = .next t →
    t.keyAddr = s.keyAddr ∧ t.keyLen = s.keyLen ∧ t.srcAddr = s.srcAddr ∧ t.srcLen = s.srcLen ∧
    t.dstAddr = s.dstAddr ∧ t.ovr = s.ovr ∧ t.doneIe = s.doneIe ∧ t.params = s.params ∧
    t.faults = s.faults ∧ t.draws = s.draws ∧ t.sched = s.sched ∧ t.prog = s.prog ∧
    t.hostV = s.hostV ∧ t.hostBytes = s.hostBytes ∧ (t.errcode ≠ 0 → t.mem = s.mem) ∧
    ∀ a, ¬ within (dstRange s.lat).addr (dstRange s.lat).len a → readByte t.mem a = readByte s.mem a

/-- R192, R78: the outcome of a command depends only on its latch, the bytes of its key and message
ranges, and the tables. -/
def Obligations.OutcomeDependsOnInputsOnly : Prop :=
  ∀ (i : Instr) (s s' : State), s.lat = s'.lat → s.params.memAdmit = s'.params.memAdmit →
    s.params.gostSbox = s'.params.gostSbox →
    (∀ a, within s.lat.keyAddr.toNat s.lat.keyLen.toNat a ∨
      within s.lat.srcAddr.toNat s.lat.srcLen.toNat a → readByte s.mem a = readByte s'.mem a) →
    ∃ t t', exec i s = .next t ∧ exec i s' = .next t' ∧ t.errcode = t'.errcode ∧
      t.outLen = t'.outLen ∧ t.done = t'.done ∧ t.seq = t'.seq ∧ t.lat = t'.lat ∧
      ∀ a, t.errcode = 0 → within (dstRange s.lat).addr (dstRange s.lat).len a →
        readByte t.mem a = readByte t'.mem a

/-- R247, R31: a write to a parameter register or to INT_EN while a command runs changes that register
and nothing of the command's effect. -/
def Obligations.ParameterWritesLeaveRunningCommand : Prop :=
  ∀ (i : Instr) (s t : State) (r : Reg) (w : Word),
    (r = .keyAddr ∨ r = .keyLen ∨ r = .srcAddr ∨ r = .srcLen ∨ r = .dstAddr ∨ r = .intEn) →
    exec i s = .next t → exec i (writeReg r w s) = .next (writeReg r w t)

/-- R182: an empty message with a valid key completes with no error, OUT_LEN 0 and no byte written, and
its ciphertext is empty. -/
def Obligations.EmptyMessageSucceeds : Prop :=
  (∀ (i : Instr) (s : State), s.lat.keyLen.toNat = keyBytes i → s.lat.srcLen = 0 →
    ¬ unadmitted s.params s.lat.keyAddr.toNat s.lat.keyLen.toNat →
    exec i s = .next
      { s with errcode := 0, outLen := 0, done := true, seq := .idle, lat := Latched.zero }) ∧
  (∀ key, desEcb key [] = []) ∧ ∀ e t key, gostEcb e t key [] = []

/-- R36: a command that passes its checks has an output length below 2^32, so OUT_LEN holds it whole. -/
def Obligations.OutputLengthFits : Prop :=
  ∀ (i : Instr) (s : State), passes i s → (s.lat.srcLen.toNat + 7) / 8 * 8 < 2 ^ 32

/-! ### Whole-machine rules -/

/-- Every step, from every state that meets the invariant, gives a state that meets it (R39, R60, R181,
R188, R191, R211). -/
def Obligations.StepKeepsMachineInvariant : Prop :=
  ∀ s t : State, s.Inv → step s = .next t → t.Inv

/-- The state right after reset meets the invariant (R240). -/
def Obligations.ResetMeetsMachineInvariant : Prop := State.reset.Inv

/-- R26, R22, R24: BUSY starts with a CMD write by the host while IDLE and with nothing else, and ends with
the engine's step or a reset and with nothing else. -/
def Obligations.SequencerTransitions : Prop :=
  ∀ s t : State, step s = .next t →
    (s.seq = .idle → t.seq = .busy → ∃ w, hostDoes s (.regWrite .word 0x00 w) ∧
      t.lat = (acceptCommand w s).lat) ∧
    (∀ w, s.seq = .idle → hostDoes s (.regWrite .word 0x00 w) → t.seq = .busy) ∧
    (s.seq = .busy → t.seq = .idle → nextMover s = .engine ∨ nextMover s = .reset) ∧
    (s.seq = .busy → nextMover s = .engine ∨ nextMover s = .reset → t.seq = .idle)

/-- R78, R218, R242, R243: the only events that change a byte of memory. -/
def Obligations.MemoryChangesOnlyByRule : Prop :=
  ∀ (s t : State) (a : Nat), step s = .next t → readByte t.mem a ≠ readByte s.mem a →
    (∃ addr b, hostDoes s (.memWrite addr b) ∧ addr.toNat = a) ∨
    (nextMover s = .engine ∧ s.seq = .busy ∧ t.errcode = 0 ∧
      within (dstRange s.lat).addr (dstRange s.lat).len a) ∨
    (nextMover s = .reset ∧ s.seq = .busy ∧ within (dstRange s.lat).addr (dstRange s.lat).len a)

/-- R29: STATUS.OVR is set by a CMD write while BUSY, cleared by a STATUS write with bit 3 set and by a
reset, and changed by nothing else. -/
def Obligations.OverrunChangesOnlyByRule : Prop :=
  ∀ s t : State, step s = .next t →
    (∀ w, s.seq = .busy → hostDoes s (.regWrite .word 0x00 w) → t.ovr = true) ∧
    (∀ w : Word, w.getLsbD 3 = true → hostDoes s (.regWrite .word 0x04 w) → t.ovr = false) ∧
    (nextMover s = .reset → t.ovr = false) ∧
    (t.ovr ≠ s.ovr →
      (s.seq = .busy ∧ ∃ w, hostDoes s (.regWrite .word 0x00 w)) ∨
      (∃ w : Word, w.getLsbD 3 = true ∧ hostDoes s (.regWrite .word 0x04 w)) ∨
      nextMover s = .reset)

/-- R27: STATUS.DONE is set by every engine step, cleared by an accepted CMD write, by a STATUS write with
bit 1 set and by a reset, and changed by nothing else. -/
def Obligations.DoneChangesOnlyByRule : Prop :=
  ∀ s t : State, step s = .next t →
    (s.seq = .busy → nextMover s = .engine → t.done = true) ∧
    (∀ w, s.seq = .idle → hostDoes s (.regWrite .word 0x00 w) → t.done = false) ∧
    (∀ w : Word, w.getLsbD 1 = true → hostDoes s (.regWrite .word 0x04 w) → t.done = false) ∧
    (nextMover s = .reset → t.done = false) ∧
    (t.done ≠ s.done →
      (s.seq = .busy ∧ nextMover s = .engine) ∨
      (s.seq = .idle ∧ ∃ w, hostDoes s (.regWrite .word 0x00 w)) ∨
      (∃ w : Word, w.getLsbD 1 = true ∧ hostDoes s (.regWrite .word 0x04 w)) ∨
      nextMover s = .reset)

/-- R220: IRQ is lowered by each of four events, and by nothing else. -/
def Obligations.InterruptClearedOnlyByRule : Prop :=
  ∀ s t : State, step s = .next t → irq s = true → (irq t = false ↔ lowersIrq s)

/-- R224: a recorded model fault is never cleared, only a host's step records one, and the step that
does changes nothing else of the hardware. -/
def Obligations.FaultsAreNeverCleared : Prop :=
  ∀ s t : State, step s = .next t → ∃ fs, t.faults = s.faults ++ fs ∧
    (fs ≠ [] → nextMover s = .host ∧
      t.hardware = { s with faults := s.faults ++ fs }.hardware)

/-- R41: no step changes the parameters of the instance, the S-box among them. -/
def Obligations.ParametersNeverChange : Prop :=
  ∀ s t : State, step s = .next t → t.params = s.params

/-- R89, R250: a host that waits for the completion of a running command has seen DONE = 1 after two
steps, once the interleaving gives the engine its step. (That it does when no turn is left is assumption 1,
and that one pass of the loop is one host step is assumption 16.) -/
def Obligations.WaitDoneTerminates : Prop :=
  ∀ (s : State) (rest : List HostOp), s.seq = .busy → s.sched = [] → s.prog = waitDone ++ rest →
    ∃ t u, step s = .next t ∧ step t = .next u ∧ u.prog = rest ∧ u.seq = .idle ∧
      u.hostV.getLsbD 1 = true ∧ u.hostV.getLsbD 0 = false

/-! ### The ECB driver -/

/-- R181: the output length, for both ciphers and every S-box and byte order. -/
def Obligations.OutputLengthLaw : Prop :=
  ∀ key msg : List Byte, (desEcb key msg).length = (msg.length + 7) / 8 * 8 ∧
    ∀ e t, (gostEcb e t key msg).length = (msg.length + 7) / 8 * 8

/-- R180, R183: block i's output stands at bytes 8i to 8i+7 and is the block function of the message's
bytes there, zero beyond the end. -/
def Obligations.BlockOutputPlacement : Prop :=
  ∀ (f : List Byte → List Byte) (msg : List Byte) (i : Nat),
    (∀ b, b.length = 8 → (f b).length = 8) → i < (msg.length + 7) / 8 →
    ((ecb f msg).drop (8 * i)).take 8 =
      f ((List.range 8).map fun j => msg.getD (8 * i + j) 0)

/-- R197: messages with the same block count that agree after zero fill give the same output. -/
def Obligations.PaddingTransparency : Prop :=
  ∀ (f : List Byte → List Byte) (m1 m2 : List Byte),
    (m1.length + 7) / 8 = (m2.length + 7) / 8 → (∀ j, m1.getD j 0 = m2.getD j 0) →
    ecb f m1 = ecb f m2

/-! ### The DES datapath -/

/-- R63, R64: eight bytes pack into a 64-bit value with byte 0 on top, for the key as for a block, and the
block's output bytes are packed the same way. -/
def Obligations.DesBytePacking : Prop :=
  (∀ b0 b1 b2 b3 b4 b5 b6 b7 : Byte, BitVec.ofNat 64 (beNat [b0, b1, b2, b3, b4, b5, b6, b7]) =
    b0 ++ b1 ++ b2 ++ b3 ++ b4 ++ b5 ++ b6 ++ b7) ∧
  (∀ k0 k1 k2 k3 k4 k5 k6 k7 : Byte, desKeySchedule [k0, k1, k2, k3, k4, k5, k6, k7] =
    desSchedule (k0 ++ k1 ++ k2 ++ k3 ++ k4 ++ k5 ++ k6 ++ k7)) ∧
  ∀ (ks : List (BitVec 48)) (blk : List Byte), blk.length = 8 →
    BitVec.ofNat 64 (beNat (desBlockBytes ks blk)) = desBlock (BitVec.ofNat 64 (beNat blk)) ks

/-- R121: FP undoes IP. -/
def Obligations.FinalPermutationInverts : Prop :=
  ∀ v : BitVec 64, permute 64 desFP (permute 64 desIP v) = v

/-- R104 to R106, R103: the subkey of round r selects from both halves rotated by the amounts summed so
far, and the sixteen amounts bring the halves back to where they began. -/
def Obligations.SubkeyRotations : Prop :=
  ∀ k : BitVec 64, (desSchedule k).length = 16 ∧
    (∀ r, r < 16 → (desSchedule k).getD r 0 =
      permute 48 desPC2 ((desHalves k).1.rotateLeft (desShifts.take (r + 1)).sum ++
        (desHalves k).2.rotateLeft (desShifts.take (r + 1)).sum)) ∧
    (desHalves k).1.rotateLeft desShifts.sum = (desHalves k).1 ∧
    (desHalves k).2.rotateLeft desShifts.sum = (desHalves k).2

/-- R108: keys that differ only in the lowest bit of each byte give the same subkeys, and so the same
ciphertext. -/
def Obligations.ParityBitsIgnored : Prop :=
  ∀ key key' : List Byte, key.length = 8 → key'.length = 8 →
    (∀ j, (key.getD j 0) >>> 1 = (key'.getD j 0) >>> 1) →
    desKeySchedule key = desKeySchedule key' ∧ ∀ msg, desEcb key msg = desEcb key' msg

/-- R109: halves of all zeros or all ones give sixteen equal subkeys. -/
def Obligations.WeakKeysRepeatSubkeys : Prop :=
  (∀ k : BitVec 64, ((desHalves k).1 = 0 ∨ (desHalves k).1 = BitVec.allOnes 28) →
    ((desHalves k).2 = 0 ∨ (desHalves k).2 = BitVec.allOnes 28) →
    desSchedule k = List.replicate 16 ((desSchedule k).getD 0 0)) ∧
  desSchedule 0x0101010101010101#64 = List.replicate 16 0#48

/-- R125 to R127: the output nibble of group g, counted from the top, is the entry of box g in the row of
the group's outer two bits and the column of its inner four. -/
def Obligations.SboxOutputPlacement : Prop :=
  ∀ (x : BitVec 48) (g : Nat), g < 8 →
    (desSubstitute x).extractLsb' (28 - 4 * g) 4 =
      BitVec.ofNat 4 (((desSboxes.getD g []).getD
        (2 * (x.getLsbD (47 - 6 * g)).toNat + (x.getLsbD (42 - 6 * g)).toNat) []).getD
        (x.extractLsb' (43 - 6 * g) 4).toNat 0)

/-- R123, R124, R128: the round function, bit by bit, counted from the most significant: bit j of what the
S-boxes take is the half's bit that E names for j, mixed with bit j of the subkey, and bit j of the result is
the bit of their output that P names for j. The tables count positions from 1. -/
def Obligations.DesRoundFunctionBits : Prop :=
  ∀ (r : BitVec 32) (k : BitVec 48), ∃ x : BitVec 48,
    (∀ j, j < 48 → x.getMsbD j = (r.getMsbD (desE.getD j 0 - 1) ^^ k.getMsbD j)) ∧
    ∀ j, j < 32 → (desF r k).getMsbD j = (desSubstitute x).getMsbD (desP.getD j 0 - 1)

/-- R130, R131: the sixteen rounds as the rule writes them, and the ciphertext from the right half and
then the left. -/
def Obligations.DesRoundsAsStated : Prop :=
  ∀ (v : BitVec 64) (ks : List (BitVec 48)), ks.length = 16 →
    ∃ L R : Nat → BitVec 32, L 0 ++ R 0 = permute 64 desIP v ∧
      (∀ i, i < 16 → L (i + 1) = R i ∧ R (i + 1) = L i ^^^ desF (R i) (ks.getD i 0)) ∧
      desBlock v ks = permute 64 desFP (R 16 ++ L 16)

/-- R133: complementing the block and the key complements the ciphertext. -/
def Obligations.DesComplementation : Prop :=
  ∀ v k : BitVec 64, desBlock (~~~v) (desSchedule (~~~k)) = ~~~(desBlock v (desSchedule k))

/-- R133: with sixteen equal subkeys, encrypting twice gives the block back. -/
def Obligations.EqualSubkeysInvolution : Prop :=
  ∀ (v : BitVec 64) (k : BitVec 48),
    desBlock (desBlock v (List.replicate 16 k)) (List.replicate 16 k) = v

/-! ### The GOST datapath -/

/-- R151: subkey j is bytes 4j to 4j+3 of the key, the first least significant. -/
def Obligations.GostSubkeySlices : Prop :=
  ∀ (key : List Byte) (j : Nat), key.length = 32 → j < 8 →
    (gostSubkeys .little key).length = 8 ∧ (gostSubkeys .little key).getD j 0 =
      key.getD (4 * j + 3) 0 ++ key.getD (4 * j + 2) 0 ++ key.getD (4 * j + 1) 0 ++ key.getD (4 * j) 0

/-- R153 to R155: nibble n of the round function's value is table n's entry for nibble n of the wrapped
sum, for every S-box. -/
def Obligations.GostNibbleSubstitution : Prop :=
  ∀ (t : GostSbox) (x k : BitVec 32) (n : Fin 8),
    (gostF t x k).extractLsb' (4 * n.val) 4 =
      gostLookup t n ((BitVec.ofNat 32 (x.toNat + k.toNat)).extractLsb' (4 * n.val) 4)

/-- R160: the subkey index and the half of each of the 32 elementary updates. -/
def Obligations.GostUpdateOrder : Prop :=
  ∀ (t : GostSbox) (ks : List (BitVec 32)) (ab : BitVec 32 × BitVec 32),
    gostUpdates t ks ab =
      (([0, 1, 2, 3, 4, 5, 6, 7] ++ [0, 1, 2, 3, 4, 5, 6, 7] ++ [0, 1, 2, 3, 4, 5, 6, 7] ++
          [7, 6, 5, 4, 3, 2, 1, 0]).zipIdx).foldl
        (fun (ab : BitVec 32 × BitVec 32) (ju : Nat × Nat) =>
          if ju.2 % 2 = 0 then (ab.1 ^^^ gostF t ab.2 (ks.getD ju.1 0), ab.2)
          else (ab.1, ab.2 ^^^ gostF t ab.1 (ks.getD ju.1 0)))
        ab

/-- R157, R161: a is the block's first four bytes and b its last four, little-endian; after the updates the
new b comes out first and the new a last. -/
def Obligations.GostHalvesAndSwap : Prop :=
  ∀ (t : GostSbox) (ks : List (BitVec 32)) (b0 b1 b2 b3 b4 b5 b6 b7 : Byte),
    ∃ c0 c1 c2 c3 c4 c5 c6 c7 : Byte,
      gostBlock .little t ks [b0, b1, b2, b3, b4, b5, b6, b7] = [c0, c1, c2, c3, c4, c5, c6, c7] ∧
      gostUpdates t ks (b3 ++ b2 ++ b1 ++ b0, b7 ++ b6 ++ b5 ++ b4) =
        (c7 ++ c6 ++ c5 ++ c4, c3 ++ c2 ++ c1 ++ c0)

/-- R164: the wrap of the addition, the all-zero S-box, the identity S-box, and the repeated words of the
ASCII key of the document's vector. -/
def Obligations.GostCornerCases : Prop :=
  (0xFFFFFFFF#32 + 0x00000001#32 = 0#32) ∧
  (∀ x k, gostF zeroBox x k = 0) ∧
  (∀ (e : Endian) (ks : List (BitVec 32)) (blk : List Byte), blk.length = 8 →
    gostBlock e zeroBox ks blk = blk.drop 4 ++ blk.take 4) ∧
  (∀ x k, gostF identityBox x k = x + k) ∧
  (∀ key : List Byte, key = (List.range 32).map (fun i => BitVec.ofNat 8 (0x30 + i % 10)) →
    (gostSubkeys .little key).getD 0 0 = (gostSubkeys .little key).getD 5 0 ∧
    (gostSubkeys .little key).getD 1 0 = (gostSubkeys .little key).getD 6 0 ∧
    (gostSubkeys .little key).getD 2 0 = (gostSubkeys .little key).getD 7 0)
end

