-- ==== Sys2Proof/Laws/Bits.lean ====
section
/-! SUPPORT. The laws of bit selection and of byte packing. -/

namespace Sys2Proof.Machine

theorem permute_fold_testBit {n : Nat} (v : BitVec n) (table : List Nat) : ∀ (acc k : Nat),
    (table.foldl (fun acc i => 2 * acc + (v.getMsbD (i - 1)).toNat) acc).testBit k =
      if k < table.length then v.getMsbD (table.getD (table.length - 1 - k) 0 - 1)
      else acc.testBit (k - table.length) := by
  induction table with
  | nil => intro acc k; simp
  | cons t ts ih =>
    intro acc k
    simp only [List.foldl_cons, ih, List.length_cons]
    by_cases h : k < ts.length
    · rw [if_pos h, if_pos (by omega), show ts.length + 1 - 1 - k = (ts.length - 1 - k) + 1 by omega,
        List.getD_cons_succ]
    · rw [if_neg h]
      by_cases h2 : k = ts.length
      · subst h2
        simp [Nat.testBit_zero]
        cases v.getMsbD (t - 1) <;> simp
      · rw [if_neg (by omega), show k - ts.length = (k - (ts.length + 1)) + 1 by omega,
          Nat.testBit_succ]
        congr 1
        have := Bool.toNat_lt (v.getMsbD (t - 1))
        omega

/-- What each bit of a permuted value is (R14): output position j from the most significant bit, counted
from 0 here, is the input position the table names. -/
theorem getMsbD_permute {n : Nat} (m : Nat) (table : List Nat) (v : BitVec n) (hm : m = table.length)
    {j : Nat} (hj : j < m) : (permute m table v).getMsbD j = v.getMsbD (table.getD j 0 - 1) := by
  subst hm
  rw [BitVec.getMsbD_eq_getLsbD]
  simp only [hj, decide_true, Bool.true_and, permute, BitVec.getLsbD_ofNat, permute_fold_testBit]
  rw [if_pos (by omega), show table.length - 1 - (table.length - 1 - j) = j by omega]
  simp; omega

/-- Two values that agree at the positions a table names are permuted alike. -/
theorem permute_congr {n : Nat} {m : Nat} {table : List Nat} {v w : BitVec n} (hm : m = table.length)
    (h : ∀ i ∈ table, v.getMsbD (i - 1) = w.getMsbD (i - 1)) : permute m table v = permute m table w := by
  refine BitVec.eq_of_getMsbD_eq fun j hj => ?_
  rw [getMsbD_permute m table v hm hj, getMsbD_permute m table w hm hj]
  have hj' : j < table.length := by omega
  rw [List.getD_eq_getElem _ _ hj']
  exact h _ (List.getElem_mem hj')

@[simp] theorem length_toLE (k : Nat) : ∀ v, (toLE k v).length = k := by
  induction k with
  | zero => intro v; rfl
  | succ k ih => intro v; simp [toLE, ih]

@[simp] theorem length_toBE (k v : Nat) : (toBE k v).length = k := by simp [toBE]

theorem leNat_lt (bs : List Byte) : leNat bs < 256 ^ bs.length := by
  induction bs with
  | nil => simp [leNat]
  | cons b bs ih =>
    simp only [leNat, List.foldr_cons, List.length_cons, Nat.pow_succ] at *
    have := b.isLt
    omega

/-- Serialising what was packed gives the bytes back (R16). -/
theorem toLE_leNat (bs : List Byte) : toLE bs.length (leNat bs) = bs := by
  induction bs with
  | nil => rfl
  | cons b bs ih =>
    have hb := b.isLt
    have h1 : leNat (b :: bs) = b.toNat + 256 * leNat bs := rfl
    simp only [List.length_cons, toLE, h1]
    rw [show (b.toNat + 256 * leNat bs) / 256 = leNat bs by omega, ih]
    congr 1
    apply BitVec.eq_of_toNat_eq
    simp
    omega

theorem beNat_eq_leNat_reverse (bs : List Byte) : beNat bs = leNat bs.reverse := by
  simp only [beNat, leNat, List.foldr_reverse]
  congr 1
  funext acc b
  omega

theorem toBE_beNat (bs : List Byte) : toBE bs.length (beNat bs) = bs := by
  rw [toBE, beNat_eq_leNat_reverse]
  have := toLE_leNat bs.reverse
  rw [List.length_reverse] at this
  rw [this, List.reverse_reverse]

theorem beNat_lt (bs : List Byte) : beNat bs < 256 ^ bs.length := by
  rw [beNat_eq_leNat_reverse, ← List.length_reverse]
  exact leNat_lt _

end Sys2Proof.Machine
end

