-- ==== Sys2Proof/Laws/Ciphers.lean ====
section
/-! SUPPORT. The laws of the datapaths that later proofs cite: output lengths, word packing, permutations
under complement, and equality by nibbles. -/

namespace Sys2Proof.Machine

@[simp] theorem length_desBlockBytes (ks : List (BitVec 48)) (blk : List Byte) :
    (desBlockBytes ks blk).length = 8 := by simp [desBlockBytes]

@[simp] theorem length_gostBytes (e : Endian) (w : BitVec 32) : (gostBytes e w).length = 4 := by
  cases e <;> simp [gostBytes]

@[simp] theorem length_gostBlock (e : Endian) (t : GostSbox) (ks : List (BitVec 32)) (blk : List Byte) :
    (gostBlock e t ks blk).length = 8 := by simp [gostBlock]

theorem length_ecbBlockOf {msg : List Byte} {i : Nat} (h : i < cdiv8 msg.length) :
    (ecbBlockOf msg i).length = 8 := by
  simp [ecbBlockOf, zeroFill, paddedLen]
  unfold cdiv8 at *
  omega

/-- ECB over a block function from 8 bytes to 8 bytes gives 8 bytes per block. -/
theorem length_ecb {blk : List Byte → List Byte} (msg : List Byte)
    (h : ∀ b, b.length = 8 → (blk b).length = 8) : (ecb blk msg).length = paddedLen msg.length := by
  have flat : ∀ n, n ≤ cdiv8 msg.length →
      ((List.range n).flatMap fun i => blk (ecbBlockOf msg i)).length = n * 8 := by
    intro n
    induction n with
    | zero => intro _; rfl
    | succ n ih =>
      intro hn
      rw [List.range_succ, List.flatMap_append, List.length_append, ih (by omega)]
      simp [h _ (length_ecbBlockOf (show n < cdiv8 msg.length by omega))]
      omega
  exact flat _ (Nat.le_refl _)

/-- Unpacking a GOST word gives back the bytes it was packed from, in either byte order (R65). -/
theorem gostBytes_gostWord (e : Endian) {bytes : List Byte} (h : bytes.length = 4) :
    gostBytes e (gostWord e bytes) = bytes := by
  cases e
  · have hb := leNat_lt bytes
    rw [h] at hb
    simp only [gostBytes, gostWord]
    rw [BitVec.toNat_ofNat, Nat.mod_eq_of_lt (by omega), ← h, toLE_leNat]
  · have hb := beNat_lt bytes
    rw [h] at hb
    simp only [gostBytes, gostWord]
    rw [BitVec.toNat_ofNat, Nat.mod_eq_of_lt (by omega), ← h, toBE_beNat]

/-- A bit selection commutes with the complement. -/
theorem permute_not {n : Nat} (m : Nat) {table : List Nat} (v : BitVec n) (hm : m = table.length)
    (ht : ∀ i ∈ table, i - 1 < n) : permute m table (~~~v) = ~~~(permute m table v) := by
  refine BitVec.eq_of_getMsbD_eq fun j hj => ?_
  rw [getMsbD_permute _ _ _ hm hj, BitVec.getMsbD_not, BitVec.getMsbD_not, getMsbD_permute _ _ _ hm hj]
  have hj' : j < table.length := by omega
  rw [List.getD_eq_getElem _ _ hj']
  simp [hj, ht _ (List.getElem_mem hj')]

/-- Two 32-bit values with the same eight nibbles are equal. -/
theorem eq_of_nibbles {a b : BitVec 32}
    (h : ∀ n : Fin 8, a.extractLsb' (4 * n.val) 4 = b.extractLsb' (4 * n.val) 4) : a = b := by
  apply BitVec.eq_of_getLsbD_eq
  intro i hi
  have hb := congrArg (fun v : BitVec 4 => v.getLsbD (i % 4)) (h ⟨i / 4, by omega⟩)
  simp only [BitVec.getLsbD_extractLsb'] at hb
  rw [show 4 * (i / 4) + i % 4 = i by omega] at hb
  simpa [show i % 4 < 4 by omega] using hb

end Sys2Proof.Machine
end

