-- ==== Sys2Proof/Laws/Memory.lean ====
section
/-! SUPPORT. The laws of memory: a read after a write, the canonical form, and equality of memories. -/

namespace Sys2Proof.Machine

theorem findByte_writeByte (m : List Host.Cell) (a x : Nat) (b : Byte) :
    findByte (writeByte m a b) x = if x = a then some b else findByte m x := by
  induction m with
  | nil => simp [writeByte, findByte, eq_comm]
  | cons c cs ih =>
    simp only [writeByte]
    split
    · simp [findByte, eq_comm]
    · split
      · simp only [findByte]; grind
      · simp only [findByte, ih]; grind

/-- A read after a write of one byte (R72). -/
theorem readByte_writeByte (m : List Host.Cell) (a x : Nat) (b : Byte) :
    readByte (writeByte m a b) x = if x = a then b else readByte m x := by
  simp only [readByte, findByte_writeByte]
  split <;> simp

/-- A read after a write of several bytes. -/
theorem readByte_writeBytes (bs : List Byte) : ∀ (m : List Host.Cell) (a x : Nat),
    readByte (writeBytes m a bs) x =
      if a ≤ x ∧ x < a + bs.length then bs.getD (x - a) 0 else readByte m x := by
  induction bs with
  | nil => intro m a x; simp [writeBytes]
  | cons b bs ih =>
    intro m a x
    simp only [writeBytes, ih, readByte_writeByte, List.length_cons]
    by_cases h : a + 1 ≤ x ∧ x < a + 1 + bs.length
    · rw [if_pos h, if_pos (by omega), show x - a = (x - (a + 1)) + 1 by omega]
      simp
    · rw [if_neg h]
      by_cases h2 : x = a
      · subst h2; simp
      · rw [if_neg h2, if_neg (by omega)]

theorem readByte_writeBytes_of_outside {m : List Host.Cell} {a x : Nat} {bs : List Byte}
    (h : ¬ (a ≤ x ∧ x < a + bs.length)) : readByte (writeBytes m a bs) x = readByte m x := by
  rw [readByte_writeBytes, if_neg h]

@[simp] theorem length_readBytes (m : List Host.Cell) (n : Nat) :
    ∀ a, (readBytes m a n).length = n := by
  induction n with
  | zero => intro a; rfl
  | succ n ih => intro a; simp [readBytes, ih]

/-- Reading a range depends only on the bytes in it. -/
theorem readBytes_congr {m m' : List Host.Cell} {n : Nat} : ∀ {a : Nat},
    (∀ x, a ≤ x → x < a + n → readByte m x = readByte m' x) → readBytes m a n = readBytes m' a n := by
  induction n with
  | zero => intro a _; rfl
  | succ n ih =>
    intro a h
    simp only [readBytes]
    rw [h a (by omega) (by omega), ih fun x h1 h2 => h x (by omega) (by omega)]

@[simp] theorem length_drawnBytes (n : Nat) : ∀ k, (drawnBytes k n).length = n := by
  induction n with
  | zero => intro k; rfl
  | succ n ih => intro k; simp [drawnBytes, ih]

theorem getD_drawnBytes (n : Nat) : ∀ (k i : Nat), i < n →
    (drawnBytes k n).getD i 0 = Config.drawnByte (k + i) := by
  induction n with
  | zero => intro k i h; omega
  | succ n ih =>
    intro k i h
    cases i with
    | zero => rfl
    | succ i =>
      simp only [drawnBytes, List.getD_cons_succ]
      rw [ih (k + 1) i (by omega), show k + 1 + i = k + (i + 1) by omega]

theorem wfFrom_mono {lo lo' : Nat} {m : List Host.Cell} (h : wfFrom lo m = true) (hl : lo' ≤ lo) :
    wfFrom lo' m = true := by
  cases m with
  | nil => rfl
  | cons c cs =>
    simp only [wfFrom, Bool.and_eq_true, decide_eq_true_eq] at *
    exact ⟨⟨by omega, h.1.2⟩, h.2⟩

theorem wfFrom_writeByte {a : Nat} {b : Byte} (ha : a < addressCount) (m : List Host.Cell) :
    ∀ lo, wfFrom lo m = true → lo ≤ a → wfFrom lo (writeByte m a b) = true := by
  induction m with
  | nil => intro lo _ hl; simpa [writeByte, wfFrom] using ⟨hl, ha⟩
  | cons c cs ih =>
    intro lo h hl
    simp only [wfFrom, Bool.and_eq_true, decide_eq_true_eq] at h
    simp only [writeByte]
    split
    · simp only [wfFrom, Bool.and_eq_true, decide_eq_true_eq]
      exact ⟨⟨hl, ha⟩, ⟨by omega, h.1.2⟩, h.2⟩
    · split
      · subst_vars
        simp only [wfFrom, Bool.and_eq_true, decide_eq_true_eq]
        exact ⟨⟨hl, ha⟩, h.2⟩
      · simp only [wfFrom, Bool.and_eq_true, decide_eq_true_eq]
        exact ⟨h.1, ih _ h.2 (by omega)⟩

/-- A write of one byte below 2^32 keeps the canonical form. -/
theorem wf_writeByte {m : List Host.Cell} {a : Nat} {b : Byte} (h : Memory.wf m = true)
    (ha : a < addressCount) : Memory.wf (writeByte m a b) = true :=
  wfFrom_writeByte ha m 0 h (Nat.zero_le a)

/-- A write of bytes that all lie below 2^32 keeps the canonical form. -/
theorem wf_writeBytes (bs : List Byte) : ∀ {m : List Host.Cell} {a : Nat},
    Memory.wf m = true → (bs = [] ∨ a + bs.length ≤ addressCount) →
    Memory.wf (writeBytes m a bs) = true := by
  induction bs with
  | nil => intro m a h _; exact h
  | cons b bs ih =>
    intro m a h hb
    simp only [List.length_cons, reduceCtorEq, false_or] at hb
    exact ih (wf_writeByte h (by omega)) (Or.inr (by omega))

theorem findByte_eq_none_of_lt {m : List Host.Cell} {x : Nat} : ∀ {lo : Nat},
    wfFrom lo m = true → x < lo → findByte m x = none := by
  induction m with
  | nil => intro lo _ _; rfl
  | cons c cs ih =>
    intro lo h hx
    simp only [wfFrom, Bool.and_eq_true, decide_eq_true_eq] at h
    rw [findByte, if_neg (by omega)]
    exact ih h.2 (by omega)

theorem wfFrom_ext {m m' : List Host.Cell} : ∀ {lo : Nat}, wfFrom lo m = true → wfFrom lo m' = true →
    (∀ x, findByte m x = findByte m' x) → m = m' := by
  induction m generalizing m' with
  | nil =>
    intro lo _ _ h
    cases m' with
    | nil => rfl
    | cons c cs => have := h c.1; simp [findByte] at this
  | cons c cs ih =>
    intro lo h h' hx
    cases m' with
    | nil => have := hx c.1; simp [findByte] at this
    | cons d ds =>
      simp only [wfFrom, Bool.and_eq_true, decide_eq_true_eq] at h h'
      have hc := hx c.1
      have hd := hx d.1
      simp only [findByte, if_true] at hc hd
      have key : c.1 = d.1 := by
        by_contra hne
        rcases Nat.lt_or_gt_of_ne hne with hlt | hgt
        · rw [if_neg (by omega), findByte_eq_none_of_lt h'.2 (by omega)] at hc
          exact Option.some_ne_none _ hc
        · rw [if_neg (by omega), findByte_eq_none_of_lt h.2 (by omega)] at hd
          exact Option.some_ne_none _ hd.symm
      have hcd : c = d := by
        rw [if_pos key.symm] at hc
        exact Prod.ext key (Option.some.inj hc)
      subst hcd
      have htail : ∀ x, findByte cs x = findByte ds x := by
        intro x
        by_cases hxc : x = c.1
        · rw [hxc, findByte_eq_none_of_lt h.2 (by omega), findByte_eq_none_of_lt h'.2 (by omega)]
        · have := hx x
          simpa [findByte, Ne.symm hxc] using this
      rw [ih h.2 h'.2 htail]

/-- Memories in canonical form that hold the same written bytes are the same data. -/
theorem memory_ext {m m' : List Host.Cell} (h : Memory.wf m = true) (h' : Memory.wf m' = true)
    (hx : ∀ x, findByte m x = findByte m' x) : m = m' :=
  wfFrom_ext h h' hx

end Sys2Proof.Machine
end

