-- ==== Sys2Proof/Laws/Operands.lean ====
section
/-! SUPPORT. What the predicates on ranges say (R79), and every way a command's checks can end (R216). -/

namespace Sys2Proof.Machine

theorem admitsFrom_iff (p : Params) (n : Nat) : ∀ a,
    admitsFrom p n a = true ↔ ∀ i, i < n → memAdmits p (a + i) = true := by
  induction n with
  | zero => intro a; simp [admitsFrom]
  | succ n ih =>
    intro a
    simp only [admitsFrom, Bool.and_eq_true, ih]
    constructor
    · rintro ⟨h0, h⟩ i hi
      cases i with
      | zero => exact h0
      | succ i => rw [show a + (i + 1) = a + 1 + i by omega]; exact h i (by omega)
    · intro h
      exact ⟨h 0 (by omega), fun i hi => by
        rw [show a + 1 + i = a + (i + 1) by omega]; exact h (i + 1) (by omega)⟩

/-- `admitted` in the words of R79. -/
theorem admitted_iff (p : Params) (r : Range) : admitted p r = true ↔
    r.len = 0 ∨ (r.addr + r.len ≤ addressCount ∧ ∀ i, i < r.len → memAdmits p (r.addr + i) = true) := by
  simp [admitted, admitsFrom_iff]

theorem has_iff (r : Range) (a : Nat) : r.has a = true ↔ r.addr ≤ a ∧ a < r.addr + r.len := by
  simp [Range.has]

theorem overlap_iff (r q : Range) : overlap r q = true ↔
    0 < r.len ∧ 0 < q.len ∧ r.addr < q.addr + q.len ∧ q.addr < r.addr + r.len := by
  simp [overlap, and_assoc]

/-- A command passes every check exactly when no condition of R213 to R215 holds. -/
theorem commandError_eq_none (p : Params) (need : Nat) (l : Latched) : commandError p need l = none ↔
    l.keyLen.toNat = need ∧ admitted p (keyRange l) = true ∧ admitted p (srcRange l) = true ∧
      admitted p (dstRange l) = true ∧ overlap (dstRange l) (keyRange l) = false ∧
      overlap (dstRange l) (srcRange l) = false := by
  unfold commandError
  split
  · simp_all
  · split
    · simp_all
      grind
    · split
      · simp_all
        grind
      · simp_all

/-- A command that fails a check reports one of three codes. -/
theorem commandError_cases {p : Params} {need : Nat} {l : Latched} {c : ErrCode}
    (h : commandError p need l = some c) : c = .invalidKeyLength ∨ c = .range ∨ c = .overlap := by
  unfold commandError at h
  split at h
  · simp_all
  · split at h
    · simp_all
    · split at h <;> simp_all

/-- Every predicate on 32-bit addresses is the `MEM_ADMIT` of some parameters (assumption 4). -/
theorem memAdmit_general (f : Nat → Bool) : ∃ p : Params, ∀ a, a < addressCount → memAdmits p a = f a := by
  refine ⟨{ regBase := 0, gostSbox := default,
            memAdmit := ((List.range addressCount).filter f).map fun a => ⟨a, 1⟩ }, fun a ha => ?_⟩
  rw [Bool.eq_iff_iff]
  simp only [memAdmits, List.any_eq_true, List.mem_map, List.mem_filter, List.mem_range, inRegion,
    Bool.and_eq_true, decide_eq_true_eq]
  constructor
  · rintro ⟨g, ⟨x, ⟨_, hx⟩, rfl⟩, h1, h2⟩
    have : x = a := by simp at h1 h2; omega
    exact this ▸ hx
  · intro h
    exact ⟨⟨a, 1⟩, ⟨a, ⟨ha, h⟩, rfl⟩, by simp⟩

end Sys2Proof.Machine
end

