-- ==== Sys2Proof/Laws/PerInstr.lean ====
section
/-! SUPPORT. A statement about each instruction as syntax, made per constructor. -/

namespace Sys2Proof.Laws.Encoding

/-- An instruction is well formed, its word is a well-formed CMD word, and that word decodes to it, read
by itself or as a row of spec/opcode_table.json (R81, R83). -/
def Statement (i : Instr) : Prop :=
  i.wellFormed = true ∧ wellFormedWord (encode i) = true ∧ decode (encode i) = .instr i ∧
    decodeTableWord 32 (encode i).toNat = some i

theorem desEcbEncrypt : Statement .desEcbEncrypt := ⟨rfl, by decide, by decide, by decide⟩

theorem gostEcbEncrypt : Statement .gostEcbEncrypt := ⟨rfl, by decide, by decide, by decide⟩

end Sys2Proof.Laws.Encoding
end

