-- ==== Sys2Proof/Laws/State.lean ====
section
/-! SUPPORT. One lemma per field and named update of the state, each true by unfolding the update once. -/

namespace Sys2Proof.Machine

@[simp] theorem takeTurn_seq (s : State) :
    (takeTurn s).seq = s.seq := rfl

@[simp] theorem takeTurn_lat (s : State) :
    (takeTurn s).lat = s.lat := rfl

@[simp] theorem takeTurn_done (s : State) :
    (takeTurn s).done = s.done := rfl

@[simp] theorem takeTurn_ovr (s : State) :
    (takeTurn s).ovr = s.ovr := rfl

@[simp] theorem takeTurn_errcode (s : State) :
    (takeTurn s).errcode = s.errcode := rfl

@[simp] theorem takeTurn_keyAddr (s : State) :
    (takeTurn s).keyAddr = s.keyAddr := rfl

@[simp] theorem takeTurn_keyLen (s : State) :
    (takeTurn s).keyLen = s.keyLen := rfl

@[simp] theorem takeTurn_srcAddr (s : State) :
    (takeTurn s).srcAddr = s.srcAddr := rfl

@[simp] theorem takeTurn_srcLen (s : State) :
    (takeTurn s).srcLen = s.srcLen := rfl

@[simp] theorem takeTurn_dstAddr (s : State) :
    (takeTurn s).dstAddr = s.dstAddr := rfl

@[simp] theorem takeTurn_outLen (s : State) :
    (takeTurn s).outLen = s.outLen := rfl

@[simp] theorem takeTurn_doneIe (s : State) :
    (takeTurn s).doneIe = s.doneIe := rfl

@[simp] theorem takeTurn_mem (s : State) :
    (takeTurn s).mem = s.mem := rfl

@[simp] theorem takeTurn_faults (s : State) :
    (takeTurn s).faults = s.faults := rfl

@[simp] theorem takeTurn_params (s : State) :
    (takeTurn s).params = s.params := rfl

@[simp] theorem takeTurn_draws (s : State) :
    (takeTurn s).draws = s.draws := rfl

@[simp] theorem takeTurn_sched (s : State) :
    (takeTurn s).sched = s.sched.tail := rfl

@[simp] theorem takeTurn_prog (s : State) :
    (takeTurn s).prog = s.prog := rfl

@[simp] theorem takeTurn_hostV (s : State) :
    (takeTurn s).hostV = s.hostV := rfl

@[simp] theorem takeTurn_hostBytes (s : State) :
    (takeTurn s).hostBytes = s.hostBytes := rfl

@[simp] theorem recordFaults_seq (fs : List Fault) (s : State) :
    (recordFaults fs s).seq = s.seq := rfl

@[simp] theorem recordFaults_lat (fs : List Fault) (s : State) :
    (recordFaults fs s).lat = s.lat := rfl

@[simp] theorem recordFaults_done (fs : List Fault) (s : State) :
    (recordFaults fs s).done = s.done := rfl

@[simp] theorem recordFaults_ovr (fs : List Fault) (s : State) :
    (recordFaults fs s).ovr = s.ovr := rfl

@[simp] theorem recordFaults_errcode (fs : List Fault) (s : State) :
    (recordFaults fs s).errcode = s.errcode := rfl

@[simp] theorem recordFaults_keyAddr (fs : List Fault) (s : State) :
    (recordFaults fs s).keyAddr = s.keyAddr := rfl

@[simp] theorem recordFaults_keyLen (fs : List Fault) (s : State) :
    (recordFaults fs s).keyLen = s.keyLen := rfl

@[simp] theorem recordFaults_srcAddr (fs : List Fault) (s : State) :
    (recordFaults fs s).srcAddr = s.srcAddr := rfl

@[simp] theorem recordFaults_srcLen (fs : List Fault) (s : State) :
    (recordFaults fs s).srcLen = s.srcLen := rfl

@[simp] theorem recordFaults_dstAddr (fs : List Fault) (s : State) :
    (recordFaults fs s).dstAddr = s.dstAddr := rfl

@[simp] theorem recordFaults_outLen (fs : List Fault) (s : State) :
    (recordFaults fs s).outLen = s.outLen := rfl

@[simp] theorem recordFaults_doneIe (fs : List Fault) (s : State) :
    (recordFaults fs s).doneIe = s.doneIe := rfl

@[simp] theorem recordFaults_mem (fs : List Fault) (s : State) :
    (recordFaults fs s).mem = s.mem := rfl

@[simp] theorem recordFaults_faults (fs : List Fault) (s : State) :
    (recordFaults fs s).faults = s.faults ++ fs := rfl

@[simp] theorem recordFaults_params (fs : List Fault) (s : State) :
    (recordFaults fs s).params = s.params := rfl

@[simp] theorem recordFaults_draws (fs : List Fault) (s : State) :
    (recordFaults fs s).draws = s.draws := rfl

@[simp] theorem recordFaults_sched (fs : List Fault) (s : State) :
    (recordFaults fs s).sched = s.sched := rfl

@[simp] theorem recordFaults_prog (fs : List Fault) (s : State) :
    (recordFaults fs s).prog = s.prog := rfl

@[simp] theorem recordFaults_hostV (fs : List Fault) (s : State) :
    (recordFaults fs s).hostV = s.hostV := rfl

@[simp] theorem recordFaults_hostBytes (fs : List Fault) (s : State) :
    (recordFaults fs s).hostBytes = s.hostBytes := rfl

@[simp] theorem storeBytes_seq (a : Nat) (bs : List Byte) (s : State) :
    (storeBytes a bs s).seq = s.seq := rfl

@[simp] theorem storeBytes_lat (a : Nat) (bs : List Byte) (s : State) :
    (storeBytes a bs s).lat = s.lat := rfl

@[simp] theorem storeBytes_done (a : Nat) (bs : List Byte) (s : State) :
    (storeBytes a bs s).done = s.done := rfl

@[simp] theorem storeBytes_ovr (a : Nat) (bs : List Byte) (s : State) :
    (storeBytes a bs s).ovr = s.ovr := rfl

@[simp] theorem storeBytes_errcode (a : Nat) (bs : List Byte) (s : State) :
    (storeBytes a bs s).errcode = s.errcode := rfl

@[simp] theorem storeBytes_keyAddr (a : Nat) (bs : List Byte) (s : State) :
    (storeBytes a bs s).keyAddr = s.keyAddr := rfl

@[simp] theorem storeBytes_keyLen (a : Nat) (bs : List Byte) (s : State) :
    (storeBytes a bs s).keyLen = s.keyLen := rfl

@[simp] theorem storeBytes_srcAddr (a : Nat) (bs : List Byte) (s : State) :
    (storeBytes a bs s).srcAddr = s.srcAddr := rfl

@[simp] theorem storeBytes_srcLen (a : Nat) (bs : List Byte) (s : State) :
    (storeBytes a bs s).srcLen = s.srcLen := rfl

@[simp] theorem storeBytes_dstAddr (a : Nat) (bs : List Byte) (s : State) :
    (storeBytes a bs s).dstAddr = s.dstAddr := rfl

@[simp] theorem storeBytes_outLen (a : Nat) (bs : List Byte) (s : State) :
    (storeBytes a bs s).outLen = s.outLen := rfl

@[simp] theorem storeBytes_doneIe (a : Nat) (bs : List Byte) (s : State) :
    (storeBytes a bs s).doneIe = s.doneIe := rfl

@[simp] theorem storeBytes_mem (a : Nat) (bs : List Byte) (s : State) :
    (storeBytes a bs s).mem = writeBytes s.mem a bs := rfl

@[simp] theorem storeBytes_faults (a : Nat) (bs : List Byte) (s : State) :
    (storeBytes a bs s).faults = s.faults := rfl

@[simp] theorem storeBytes_params (a : Nat) (bs : List Byte) (s : State) :
    (storeBytes a bs s).params = s.params := rfl

@[simp] theorem storeBytes_draws (a : Nat) (bs : List Byte) (s : State) :
    (storeBytes a bs s).draws = s.draws := rfl

@[simp] theorem storeBytes_sched (a : Nat) (bs : List Byte) (s : State) :
    (storeBytes a bs s).sched = s.sched := rfl

@[simp] theorem storeBytes_prog (a : Nat) (bs : List Byte) (s : State) :
    (storeBytes a bs s).prog = s.prog := rfl

@[simp] theorem storeBytes_hostV (a : Nat) (bs : List Byte) (s : State) :
    (storeBytes a bs s).hostV = s.hostV := rfl

@[simp] theorem storeBytes_hostBytes (a : Nat) (bs : List Byte) (s : State) :
    (storeBytes a bs s).hostBytes = s.hostBytes := rfl

@[simp] theorem acceptCommand_seq (w : Word) (s : State) :
    (acceptCommand w s).seq = .busy := rfl

@[simp] theorem acceptCommand_lat (w : Word) (s : State) :
    (acceptCommand w s).lat =
      { op := opField w, rsvdZero := rsvdField w == 0#28, keyAddr := s.keyAddr, keyLen := s.keyLen,
        srcAddr := s.srcAddr, srcLen := s.srcLen, dstAddr := s.dstAddr } := rfl

@[simp] theorem acceptCommand_done (w : Word) (s : State) :
    (acceptCommand w s).done = false := rfl

@[simp] theorem acceptCommand_ovr (w : Word) (s : State) :
    (acceptCommand w s).ovr = s.ovr := rfl

@[simp] theorem acceptCommand_errcode (w : Word) (s : State) :
    (acceptCommand w s).errcode = 0 := rfl

@[simp] theorem acceptCommand_keyAddr (w : Word) (s : State) :
    (acceptCommand w s).keyAddr = s.keyAddr := rfl

@[simp] theorem acceptCommand_keyLen (w : Word) (s : State) :
    (acceptCommand w s).keyLen = s.keyLen := rfl

@[simp] theorem acceptCommand_srcAddr (w : Word) (s : State) :
    (acceptCommand w s).srcAddr = s.srcAddr := rfl

@[simp] theorem acceptCommand_srcLen (w : Word) (s : State) :
    (acceptCommand w s).srcLen = s.srcLen := rfl

@[simp] theorem acceptCommand_dstAddr (w : Word) (s : State) :
    (acceptCommand w s).dstAddr = s.dstAddr := rfl

@[simp] theorem acceptCommand_outLen (w : Word) (s : State) :
    (acceptCommand w s).outLen = 0 := rfl

@[simp] theorem acceptCommand_doneIe (w : Word) (s : State) :
    (acceptCommand w s).doneIe = s.doneIe := rfl

@[simp] theorem acceptCommand_mem (w : Word) (s : State) :
    (acceptCommand w s).mem = s.mem := rfl

@[simp] theorem acceptCommand_faults (w : Word) (s : State) :
    (acceptCommand w s).faults = s.faults := rfl

@[simp] theorem acceptCommand_params (w : Word) (s : State) :
    (acceptCommand w s).params = s.params := rfl

@[simp] theorem acceptCommand_draws (w : Word) (s : State) :
    (acceptCommand w s).draws = s.draws := rfl

@[simp] theorem acceptCommand_sched (w : Word) (s : State) :
    (acceptCommand w s).sched = s.sched := rfl

@[simp] theorem acceptCommand_prog (w : Word) (s : State) :
    (acceptCommand w s).prog = s.prog := rfl

@[simp] theorem acceptCommand_hostV (w : Word) (s : State) :
    (acceptCommand w s).hostV = s.hostV := rfl

@[simp] theorem acceptCommand_hostBytes (w : Word) (s : State) :
    (acceptCommand w s).hostBytes = s.hostBytes := rfl

@[simp] theorem dropCommand_seq (s : State) :
    (dropCommand s).seq = s.seq := rfl

@[simp] theorem dropCommand_lat (s : State) :
    (dropCommand s).lat = s.lat := rfl

@[simp] theorem dropCommand_done (s : State) :
    (dropCommand s).done = s.done := rfl

@[simp] theorem dropCommand_ovr (s : State) :
    (dropCommand s).ovr = true := rfl

@[simp] theorem dropCommand_errcode (s : State) :
    (dropCommand s).errcode = s.errcode := rfl

@[simp] theorem dropCommand_keyAddr (s : State) :
    (dropCommand s).keyAddr = s.keyAddr := rfl

@[simp] theorem dropCommand_keyLen (s : State) :
    (dropCommand s).keyLen = s.keyLen := rfl

@[simp] theorem dropCommand_srcAddr (s : State) :
    (dropCommand s).srcAddr = s.srcAddr := rfl

@[simp] theorem dropCommand_srcLen (s : State) :
    (dropCommand s).srcLen = s.srcLen := rfl

@[simp] theorem dropCommand_dstAddr (s : State) :
    (dropCommand s).dstAddr = s.dstAddr := rfl

@[simp] theorem dropCommand_outLen (s : State) :
    (dropCommand s).outLen = s.outLen := rfl

@[simp] theorem dropCommand_doneIe (s : State) :
    (dropCommand s).doneIe = s.doneIe := rfl

@[simp] theorem dropCommand_mem (s : State) :
    (dropCommand s).mem = s.mem := rfl

@[simp] theorem dropCommand_faults (s : State) :
    (dropCommand s).faults = s.faults := rfl

@[simp] theorem dropCommand_params (s : State) :
    (dropCommand s).params = s.params := rfl

@[simp] theorem dropCommand_draws (s : State) :
    (dropCommand s).draws = s.draws := rfl

@[simp] theorem dropCommand_sched (s : State) :
    (dropCommand s).sched = s.sched := rfl

@[simp] theorem dropCommand_prog (s : State) :
    (dropCommand s).prog = s.prog := rfl

@[simp] theorem dropCommand_hostV (s : State) :
    (dropCommand s).hostV = s.hostV := rfl

@[simp] theorem dropCommand_hostBytes (s : State) :
    (dropCommand s).hostBytes = s.hostBytes := rfl

@[simp] theorem complete_seq (c : ErrCode) (n : Nat) (s : State) :
    (complete c n s).seq = .idle := rfl

@[simp] theorem complete_lat (c : ErrCode) (n : Nat) (s : State) :
    (complete c n s).lat = Latched.zero := rfl

@[simp] theorem complete_done (c : ErrCode) (n : Nat) (s : State) :
    (complete c n s).done = true := rfl

@[simp] theorem complete_ovr (c : ErrCode) (n : Nat) (s : State) :
    (complete c n s).ovr = s.ovr := rfl

@[simp] theorem complete_errcode (c : ErrCode) (n : Nat) (s : State) :
    (complete c n s).errcode = errNumber c := rfl

@[simp] theorem complete_keyAddr (c : ErrCode) (n : Nat) (s : State) :
    (complete c n s).keyAddr = s.keyAddr := rfl

@[simp] theorem complete_keyLen (c : ErrCode) (n : Nat) (s : State) :
    (complete c n s).keyLen = s.keyLen := rfl

@[simp] theorem complete_srcAddr (c : ErrCode) (n : Nat) (s : State) :
    (complete c n s).srcAddr = s.srcAddr := rfl

@[simp] theorem complete_srcLen (c : ErrCode) (n : Nat) (s : State) :
    (complete c n s).srcLen = s.srcLen := rfl

@[simp] theorem complete_dstAddr (c : ErrCode) (n : Nat) (s : State) :
    (complete c n s).dstAddr = s.dstAddr := rfl

@[simp] theorem complete_outLen (c : ErrCode) (n : Nat) (s : State) :
    (complete c n s).outLen = BitVec.ofNat 32 n := rfl

@[simp] theorem complete_doneIe (c : ErrCode) (n : Nat) (s : State) :
    (complete c n s).doneIe = s.doneIe := rfl

@[simp] theorem complete_mem (c : ErrCode) (n : Nat) (s : State) :
    (complete c n s).mem = s.mem := rfl

@[simp] theorem complete_faults (c : ErrCode) (n : Nat) (s : State) :
    (complete c n s).faults = s.faults := rfl

@[simp] theorem complete_params (c : ErrCode) (n : Nat) (s : State) :
    (complete c n s).params = s.params := rfl

@[simp] theorem complete_draws (c : ErrCode) (n : Nat) (s : State) :
    (complete c n s).draws = s.draws := rfl

@[simp] theorem complete_sched (c : ErrCode) (n : Nat) (s : State) :
    (complete c n s).sched = s.sched := rfl

@[simp] theorem complete_prog (c : ErrCode) (n : Nat) (s : State) :
    (complete c n s).prog = s.prog := rfl

@[simp] theorem complete_hostV (c : ErrCode) (n : Nat) (s : State) :
    (complete c n s).hostV = s.hostV := rfl

@[simp] theorem complete_hostBytes (c : ErrCode) (n : Nat) (s : State) :
    (complete c n s).hostBytes = s.hostBytes := rfl

@[simp] theorem raiseError_seq (c : ErrCode) (s : State) :
    (raiseError c s).seq = .idle := rfl

@[simp] theorem raiseError_lat (c : ErrCode) (s : State) :
    (raiseError c s).lat = Latched.zero := rfl

@[simp] theorem raiseError_done (c : ErrCode) (s : State) :
    (raiseError c s).done = true := rfl

@[simp] theorem raiseError_ovr (c : ErrCode) (s : State) :
    (raiseError c s).ovr = s.ovr := rfl

@[simp] theorem raiseError_errcode (c : ErrCode) (s : State) :
    (raiseError c s).errcode = errNumber c := rfl

@[simp] theorem raiseError_keyAddr (c : ErrCode) (s : State) :
    (raiseError c s).keyAddr = s.keyAddr := rfl

@[simp] theorem raiseError_keyLen (c : ErrCode) (s : State) :
    (raiseError c s).keyLen = s.keyLen := rfl

@[simp] theorem raiseError_srcAddr (c : ErrCode) (s : State) :
    (raiseError c s).srcAddr = s.srcAddr := rfl

@[simp] theorem raiseError_srcLen (c : ErrCode) (s : State) :
    (raiseError c s).srcLen = s.srcLen := rfl

@[simp] theorem raiseError_dstAddr (c : ErrCode) (s : State) :
    (raiseError c s).dstAddr = s.dstAddr := rfl

@[simp] theorem raiseError_outLen (c : ErrCode) (s : State) :
    (raiseError c s).outLen = 0 := rfl

@[simp] theorem raiseError_doneIe (c : ErrCode) (s : State) :
    (raiseError c s).doneIe = s.doneIe := rfl

@[simp] theorem raiseError_mem (c : ErrCode) (s : State) :
    (raiseError c s).mem = s.mem := rfl

@[simp] theorem raiseError_faults (c : ErrCode) (s : State) :
    (raiseError c s).faults = s.faults := rfl

@[simp] theorem raiseError_params (c : ErrCode) (s : State) :
    (raiseError c s).params = s.params := rfl

@[simp] theorem raiseError_draws (c : ErrCode) (s : State) :
    (raiseError c s).draws = s.draws := rfl

@[simp] theorem raiseError_sched (c : ErrCode) (s : State) :
    (raiseError c s).sched = s.sched := rfl

@[simp] theorem raiseError_prog (c : ErrCode) (s : State) :
    (raiseError c s).prog = s.prog := rfl

@[simp] theorem raiseError_hostV (c : ErrCode) (s : State) :
    (raiseError c s).hostV = s.hostV := rfl

@[simp] theorem raiseError_hostBytes (c : ErrCode) (s : State) :
    (raiseError c s).hostBytes = s.hostBytes := rfl

@[simp] theorem clearStatus_seq (w : Word) (s : State) :
    (clearStatus w s).seq = s.seq := rfl

@[simp] theorem clearStatus_lat (w : Word) (s : State) :
    (clearStatus w s).lat = s.lat := rfl

@[simp] theorem clearStatus_done (w : Word) (s : State) :
    (clearStatus w s).done = (s.done && !w.getLsbD 1) := rfl

@[simp] theorem clearStatus_ovr (w : Word) (s : State) :
    (clearStatus w s).ovr = (s.ovr && !w.getLsbD 3) := rfl

@[simp] theorem clearStatus_errcode (w : Word) (s : State) :
    (clearStatus w s).errcode = s.errcode := rfl

@[simp] theorem clearStatus_keyAddr (w : Word) (s : State) :
    (clearStatus w s).keyAddr = s.keyAddr := rfl

@[simp] theorem clearStatus_keyLen (w : Word) (s : State) :
    (clearStatus w s).keyLen = s.keyLen := rfl

@[simp] theorem clearStatus_srcAddr (w : Word) (s : State) :
    (clearStatus w s).srcAddr = s.srcAddr := rfl

@[simp] theorem clearStatus_srcLen (w : Word) (s : State) :
    (clearStatus w s).srcLen = s.srcLen := rfl

@[simp] theorem clearStatus_dstAddr (w : Word) (s : State) :
    (clearStatus w s).dstAddr = s.dstAddr := rfl

@[simp] theorem clearStatus_outLen (w : Word) (s : State) :
    (clearStatus w s).outLen = s.outLen := rfl

@[simp] theorem clearStatus_doneIe (w : Word) (s : State) :
    (clearStatus w s).doneIe = s.doneIe := rfl

@[simp] theorem clearStatus_mem (w : Word) (s : State) :
    (clearStatus w s).mem = s.mem := rfl

@[simp] theorem clearStatus_faults (w : Word) (s : State) :
    (clearStatus w s).faults = s.faults := rfl

@[simp] theorem clearStatus_params (w : Word) (s : State) :
    (clearStatus w s).params = s.params := rfl

@[simp] theorem clearStatus_draws (w : Word) (s : State) :
    (clearStatus w s).draws = s.draws := rfl

@[simp] theorem clearStatus_sched (w : Word) (s : State) :
    (clearStatus w s).sched = s.sched := rfl

@[simp] theorem clearStatus_prog (w : Word) (s : State) :
    (clearStatus w s).prog = s.prog := rfl

@[simp] theorem clearStatus_hostV (w : Word) (s : State) :
    (clearStatus w s).hostV = s.hostV := rfl

@[simp] theorem clearStatus_hostBytes (w : Word) (s : State) :
    (clearStatus w s).hostBytes = s.hostBytes := rfl

@[simp] theorem clearRegisters_seq (s : State) :
    (clearRegisters s).seq = .idle := rfl

@[simp] theorem clearRegisters_lat (s : State) :
    (clearRegisters s).lat = Latched.zero := rfl

@[simp] theorem clearRegisters_done (s : State) :
    (clearRegisters s).done = false := rfl

@[simp] theorem clearRegisters_ovr (s : State) :
    (clearRegisters s).ovr = false := rfl

@[simp] theorem clearRegisters_errcode (s : State) :
    (clearRegisters s).errcode = 0 := rfl

@[simp] theorem clearRegisters_keyAddr (s : State) :
    (clearRegisters s).keyAddr = 0 := rfl

@[simp] theorem clearRegisters_keyLen (s : State) :
    (clearRegisters s).keyLen = 0 := rfl

@[simp] theorem clearRegisters_srcAddr (s : State) :
    (clearRegisters s).srcAddr = 0 := rfl

@[simp] theorem clearRegisters_srcLen (s : State) :
    (clearRegisters s).srcLen = 0 := rfl

@[simp] theorem clearRegisters_dstAddr (s : State) :
    (clearRegisters s).dstAddr = 0 := rfl

@[simp] theorem clearRegisters_outLen (s : State) :
    (clearRegisters s).outLen = 0 := rfl

@[simp] theorem clearRegisters_doneIe (s : State) :
    (clearRegisters s).doneIe = false := rfl

@[simp] theorem clearRegisters_mem (s : State) :
    (clearRegisters s).mem = s.mem := rfl

@[simp] theorem clearRegisters_faults (s : State) :
    (clearRegisters s).faults = s.faults := rfl

@[simp] theorem clearRegisters_params (s : State) :
    (clearRegisters s).params = s.params := rfl

@[simp] theorem clearRegisters_draws (s : State) :
    (clearRegisters s).draws = s.draws := rfl

@[simp] theorem clearRegisters_sched (s : State) :
    (clearRegisters s).sched = s.sched := rfl

@[simp] theorem clearRegisters_prog (s : State) :
    (clearRegisters s).prog = s.prog := rfl

@[simp] theorem clearRegisters_hostV (s : State) :
    (clearRegisters s).hostV = s.hostV := rfl

@[simp] theorem clearRegisters_hostBytes (s : State) :
    (clearRegisters s).hostBytes = s.hostBytes := rfl

@[simp] theorem busy_eq_true (s : State) : busy s = true ↔ s.seq = .busy := by simp [busy]

@[simp] theorem busy_eq_false (s : State) : busy s = false ↔ s.seq = .idle := by
  cases h : s.seq <;> simp [busy, h]

end Sys2Proof.Machine
end

