-- ==== Sys2Proof/Laws/Step.lean ====
section
/-! SUPPORT. What an engine step, a host step, a reset and a step can do, said once each. -/

namespace Sys2Proof.Machine

theorem latchedCommand_of_lat {s t : State} (h : t.lat = s.lat) : latchedCommand t = latchedCommand s := by
  simp [latchedCommand, h]

/-- A command either fails a check and raises its code, or passes them all and stores its output. -/
theorem runCommand_cases (need : Nat) (cipher : List Byte → List Byte → List Byte) (s : State) :
    (∃ c, commandError s.params need s.lat = some c ∧ runCommand need cipher s = raiseError c s) ∨
    (commandError s.params need s.lat = none ∧ runCommand need cipher s =
      complete .success (dstRange s.lat).len (storeBytes (dstRange s.lat).addr
        (cipher (readBytes s.mem (keyRange s.lat).addr (keyRange s.lat).len)
          (readBytes s.mem (srcRange s.lat).addr (srcRange s.lat).len)) s)) := by
  unfold runCommand
  cases h : commandError s.params need s.lat with
  | some c => exact Or.inl ⟨c, rfl, rfl⟩
  | none => exact Or.inr ⟨rfl, rfl⟩

/-- The cipher a command runs (R186, R187). -/
def cipherOf (p : Params) : Instr → List Byte → List Byte → List Byte
  | .desEcbEncrypt => desEcb
  | .gostEcbEncrypt => gostEcb gostWordEndian p.gostSbox

/-- Both commands are the engine's one step, with their key length and their cipher (R190). -/
theorem exec_eq (i : Instr) (s : State) :
    exec i s = .next (runCommand (keyBytes i) (cipherOf s.params i) s) := by
  cases i <;> rfl

/-- An engine step is an error completion, or the completion of a command that passed its checks. -/
theorem engineStep_cases (s : State) :
    (∃ c, c ≠ ErrCode.success ∧ engineStep s = .next (raiseError c s)) ∨
    (∃ i, latchedCommand s = .instr i ∧ commandError s.params (keyBytes i) s.lat = none ∧
      engineStep s = .next (complete .success (dstRange s.lat).len (storeBytes (dstRange s.lat).addr
        (cipherOf s.params i (readBytes s.mem (keyRange s.lat).addr (keyRange s.lat).len)
          (readBytes s.mem (srcRange s.lat).addr (srcRange s.lat).len)) s))) := by
  unfold engineStep
  cases h : latchedCommand s with
  | instr i =>
    simp only [exec_eq]
    rcases runCommand_cases (keyBytes i) (cipherOf s.params i) s with ⟨c, hc, hr⟩ | ⟨hn, hr⟩
    · refine Or.inl ⟨c, ?_, by rw [hr]⟩
      rcases commandError_cases hc with rfl | rfl | rfl <;> simp
    · exact Or.inr ⟨i, rfl, hn, by rw [hr]⟩
  | reservedBits => exact Or.inl ⟨.illegalCmd, by simp, rfl⟩
  | reservedOp op => exact Or.inl ⟨.illegalCmd, by simp, rfl⟩

/-- Every step is one of these: the host's, a turn the idle engine lets pass, an error completion, a
successful completion, or a reset. -/
theorem step_cases {s t : State} (h : step s = .next t) :
    (nextMover s = .host ∧ t = hostStep (takeTurn s)) ∨
    (nextMover s = .engine ∧ s.seq = .idle ∧ t = takeTurn s) ∨
    (nextMover s = .engine ∧ s.seq = .busy ∧
      ∃ c, c ≠ ErrCode.success ∧ t = raiseError c (takeTurn s)) ∨
    (nextMover s = .engine ∧ s.seq = .busy ∧ ∃ i, latchedCommand s = .instr i ∧
      commandError s.params (keyBytes i) s.lat = none ∧
      t = complete .success (dstRange s.lat).len (storeBytes (dstRange s.lat).addr
        (cipherOf s.params i (readBytes s.mem (keyRange s.lat).addr (keyRange s.lat).len)
          (readBytes s.mem (srcRange s.lat).addr (srcRange s.lat).len)) (takeTurn s))) ∨
    (nextMover s = .reset ∧ t = resetEvent (takeTurn s)) := by
  unfold step at h
  cases hm : nextMover s with
  | host =>
    simp only [hm, Host.Outcome.next.injEq] at h
    exact Or.inl ⟨rfl, h.symm⟩
  | reset =>
    simp only [hm, Host.Outcome.next.injEq] at h
    exact Or.inr (Or.inr (Or.inr (Or.inr ⟨rfl, h.symm⟩)))
  | engine =>
    simp only [hm] at h
    cases hs : s.seq with
    | idle =>
      simp only [busy, hs, reduceCtorEq, beq_iff_eq, if_false, Host.Outcome.next.injEq] at h
      exact Or.inr (Or.inl ⟨rfl, rfl, h.symm⟩)
    | busy =>
      simp only [busy, hs, beq_self_eq_true, if_true] at h
      rcases engineStep_cases (takeTurn s) with ⟨c, hc, he⟩ | ⟨i, hi, hn, he⟩
      · rw [he, Host.Outcome.next.injEq] at h
        exact Or.inr (Or.inr (Or.inl ⟨rfl, rfl, c, hc, h.symm⟩))
      · rw [he, Host.Outcome.next.injEq] at h
        exact Or.inr (Or.inr (Or.inr (Or.inl ⟨rfl, rfl, i, hi, hn, h.symm⟩)))

/-- What a reset changes besides the registers: nothing while IDLE or when the command would have failed,
else the output range's bytes and the count of draws (R242). -/
theorem abandonCommand_cases (s : State) :
    (abandonCommand s = s ∧ ¬ (s.seq = .busy ∧ latchedPasses s = true)) ∨
    (s.seq = .busy ∧ latchedPasses s = true ∧ abandonCommand s =
      { s with
        mem := writeBytes s.mem (dstRange s.lat).addr (drawnBytes s.draws (dstRange s.lat).len)
        draws := s.draws + (dstRange s.lat).len }) := by
  by_cases h : s.seq = .busy ∧ latchedPasses s = true
  · exact Or.inr ⟨h.1, h.2, by simp [abandonCommand, h.1, h.2]⟩
  · exact Or.inl ⟨if_neg (by simpa using h), h⟩

theorem latchedPasses_iff (s : State) : latchedPasses s = true ↔
    ∃ i, latchedCommand s = .instr i ∧ commandError s.params (keyBytes i) s.lat = none := by
  unfold latchedPasses
  cases latchedCommand s <;> simp [Decoded.instr?]

@[simp] theorem length_wmem (bytes : List Byte) : ∀ a, (wmem a bytes).length = bytes.length := by
  induction bytes with
  | nil => intro a; rfl
  | cons b bs ih => intro a; simp [wmem, ih]

@[simp] theorem length_rmem (n : Nat) : ∀ a, (rmem a n).length = n := by
  induction n with
  | zero => intro a; rfl
  | succ n ih => intro a; simp [rmem, ih]

/-- The registers at the nine offsets, and none at the reserved ones (R23, R38). -/
theorem regAt_regOffset (r : Reg) : regAt (regOffset r) = some r := by cases r <;> rfl

/-- The operations of a host, by what they do to the state. -/
theorem hostAct_cases (op : HostOp) (s : State) :
    (∃ f, hostAct op s = recordFaults [f] s) ∨
    (∃ f g, hostAct op s = recordFaults [f, g] s) ∨
    (∃ v, hostAct op s = { s with hostV := v }) ∨
    (∃ bs, hostAct op s = { s with hostBytes := bs }) ∨
    (hostAct op s = s) ∨
    (∃ addr b, op = .memWrite addr b ∧ memAdmits s.params addr.toNat = true ∧
      hostAct op s = storeBytes addr.toNat [b] s) ∨
    (∃ o r w, op = .regWrite .word o w ∧ o = regOffset r ∧ hostAct op s = writeReg r w s) := by
  have mem : ∀ a, memAccessFaults a s = [] ∧ memAdmits s.params a = true ∨
      (∃ f, memAccessFaults a s = [f]) ∨ ∃ f g, memAccessFaults a s = [f, g] := by
    intro a
    unfold memAccessFaults
    by_cases h1 : memAdmits s.params a = true <;>
      by_cases h2 : (busy s && inLatchedRange s.lat a) = true <;> simp [h1, h2]
  cases op with
  | regWrite z o w =>
    simp only [hostAct, hostRegWrite]
    by_cases hl : accessLegal z o = true
    · rw [if_pos hl]
      simp only [writeOffset]
      cases hr : regAt o with
      | none => simp
      | some r =>
        have hz : z = .word := by
          cases z <;> simp_all [accessLegal, wellFormedAccess, accessBytes]
        have ho : o = regOffset r := by
          have h4 : o.toNat % 4 = 0 := by
            simp only [accessLegal, wellFormedAccess, Bool.and_eq_true, beq_iff_eq] at hl
            exact hl.2
          clear hl mem
          revert r h4
          revert o
          decide
        subst hz
        exact Or.inr (Or.inr (Or.inr (Or.inr (Or.inr (Or.inr ⟨o, r, w, rfl, ho, rfl⟩)))))
    · rw [if_neg hl]
      exact Or.inl ⟨_, rfl⟩
  | regRead z o =>
    simp only [hostAct, hostRegRead]
    split
    · exact Or.inr (Or.inr (Or.inl ⟨_, rfl⟩))
    · exact Or.inl ⟨_, rfl⟩
  | memWrite addr b =>
    simp only [hostAct, hostMemWrite]
    rcases mem addr.toNat with ⟨h, ha⟩ | ⟨f, h⟩ | ⟨f, g, h⟩ <;> rw [h]
    · exact Or.inr (Or.inr (Or.inr (Or.inr (Or.inr (Or.inl ⟨addr, b, rfl, ha, rfl⟩)))))
    · exact Or.inl ⟨f, rfl⟩
    · exact Or.inr (Or.inl ⟨f, g, rfl⟩)
  | memRead addr =>
    simp only [hostAct, hostMemRead]
    rcases mem addr.toNat with ⟨h, ha⟩ | ⟨f, h⟩ | ⟨f, g, h⟩ <;> rw [h]
    · exact Or.inr (Or.inr (Or.inr (Or.inl ⟨_, rfl⟩)))
    · exact Or.inl ⟨f, rfl⟩
    · exact Or.inr (Or.inl ⟨f, g, rfl⟩)
  | poll r mask val => exact Or.inr (Or.inr (Or.inl ⟨_, rfl⟩))
  | waitIrq => exact Or.inr (Or.inr (Or.inr (Or.inr (Or.inl rfl))))

/-- A host's step is its next operation, but for where its program stands afterwards. -/
theorem hostStep_cases (s : State) :
    (s.prog = [] ∧ hostStep s = s) ∨
    (∃ op rest p, s.prog = op :: rest ∧ hostStep s = { hostAct op s with prog := p }) := by
  cases h : s.prog with
  | nil => exact Or.inl ⟨rfl, by simp [hostStep, h]⟩
  | cons op rest =>
    refine Or.inr ⟨op, rest, ?_⟩
    by_cases hd : hostOpDone op (hostAct op s) = true
    · exact ⟨rest, rfl, by simp [hostStep, h, hd]⟩
    · exact ⟨(hostAct op s).prog, rfl, by simp [hostStep, h, hd]⟩

end Sys2Proof.Machine
end

