-- ==== Sys2Proof/Tests/Slice0.lean ====
section
/-! SUPPORT. Tests: well-formedness, decoding of words written out bit by bit, one step of each command on
the vectors of 95_test_vectors.md, and for every statement with hypotheses a state that meets them. -/

namespace Sys2Proof.Tests

open Sys2Proof Sys2Proof.Machine Sys2Proof.Claims

/-! ### Well-formedness and decoding -/

/-- R82: a word with a reserved bit set is ill formed, at both ends of RSVD. -/
theorem test_reserved_bit_ill_formed :
    wellFormedWord 0x00000011 = false ∧ wellFormedWord 0x80000001 = false := by decide

/-- R81: the reserved OP values are ill formed, at the edges of their ranges. -/
theorem test_reserved_op_ill_formed :
    wellFormedWord 0x00000000 = false ∧ wellFormedWord 0x00000003 = false ∧
      wellFormedWord 0x0000000F = false := by decide

/-- R67: byte and halfword register accesses are ill formed. -/
theorem test_narrow_access_ill_formed :
    wellFormedAccess 1 0x00 = false ∧ wellFormedAccess 2 0x04 = false := by decide

/-- R67: a misaligned register access is ill formed, and the last aligned one is well formed. -/
theorem test_misaligned_access_ill_formed :
    wellFormedAccess 4 0x02 = false ∧ wellFormedAccess 4 0x3F = false ∧
      wellFormedAccess 4 0x3C = true := by decide

/-- Both commands are well formed. -/
theorem test_commands_well_formed : ∀ i : Instr, i.wellFormed = true := by
  intro i
  cases i <;> rfl

/-- R81: the word of DES_ECB_ENCRYPT, bit by bit: OP 0001 under 28 zero bits. -/
theorem test_decode_des :
    decode 0b00000000000000000000000000000001#32 = .instr .desEcbEncrypt ∧
      decodeTableWord 32 0b00000000000000000000000000000001 = some .desEcbEncrypt := by decide

/-- R81: the word of GOST_ECB_ENCRYPT, bit by bit: OP 0010 under 28 zero bits. -/
theorem test_decode_gost :
    decode 0b00000000000000000000000000000010#32 = .instr .gostEcbEncrypt ∧
      decodeTableWord 32 0b00000000000000000000000000000010 = some .gostEcbEncrypt := by decide

/-- R84, 95_test_vectors.md L2.9: words that are no command are refused under the check they fail. -/
theorem test_decode_illegal :
    decode 0b00000000000000000000000000000000#32 = .reservedOp 0 ∧
      decode 0b00000000000000000000000000001111#32 = .reservedOp 15 ∧
      decode 0b00000000000000000000000000010001#32 = .reservedBits ∧
      decode 0b10000000000000000000000000000010#32 = .reservedBits ∧
      decodeTableWord 32 0b10000000000000000000000000000010 = none := by decide

/-! ### A small machine -/

/-- The parameters of 95_test_vectors.md L2.8: addresses below 0x10000 admitted, the identity S-box. -/
def params : Params := { regBase := 0x40000000, memAdmit := [⟨0, 0x10000⟩], gostSbox := identityBox }

/-- ASCII "01234567890123456789012345678901". -/
def key : List Byte := (List.range 32).map fun i => BitVec.ofNat 8 (0x30 + i % 10)

/-- ASCII "Test Data". -/
def msg : List Byte := [0x54, 0x65, 0x73, 0x74, 0x20, 0x44, 0x61, 0x74, 0x61]

/-- An idle machine with the key at 0x1000 and the message at 0x1100. -/
def idle : State :=
  { State.reset with params := params, mem := writeBytes (writeBytes [] 0x1000 key) 0x1100 msg }

/-- That machine while it runs a command with these ranges. -/
def running (op : BitVec 4) (ka kl sa sl da : Word) : State :=
  { idle with
    seq := .busy
    lat := { op := op, rsvdZero := true, keyAddr := ka, keyLen := kl, srcAddr := sa, srcLen := sl,
             dstAddr := da } }

/-- DES over the message, to 0x1200. -/
def des : State := running 1 0x1000 8 0x1100 9 0x1200

/-- GOST over the message, to 0x1200. -/
def gost : State := running 2 0x1000 32 0x1100 9 0x1200

/-- A machine with one host operation to do. -/
def withOp (op : HostOp) (s : State) : State := { s with prog := [op], sched := [.host] }

/-- It is that operation's turn, which is what the whole-machine rules ask of a host's step. -/
theorem withOp_does (op : HostOp) (s : State) : hostDoes (withOp op s) op := ⟨rfl, rfl⟩

/-- STATUS, OUT_LEN and n bytes of memory from a on after a step; none if it stops. -/
def seen (o : Host.Outcome State Fault Refusal) (a n : Nat) : Option (Word × Word × List Byte) :=
  match o with
  | .next t => some (statusWord t, t.outLen, readBytes t.mem a n)
  | .fault _ => none
  | .refused _ => none

/-! ### One step of each command -/

/-- 95_test_vectors.md L1.1: the DES known-answer vector. -/
theorem test_des_known_answer :
    seen (step des) 0x1200 16 =
      some (0x00000002, 16, toBE 16 0xac77741a613a8dda2a0bd4d88a3cfb55) := by decide +kernel

/-- 95_test_vectors.md L2.8: DES with a key of 7 bytes; the message stays. -/
theorem test_des_short_key :
    seen (step (running 1 0x1000 7 0x1100 9 0x1200)) 0x1100 9 = some (0x00000206, 0, msg) := by
  decide +kernel

/-- 95_test_vectors.md L2.7: GOST under the identity S-box. -/
theorem test_gost_identity_box :
    seen (step gost) 0x1200 16 =
      some (0x00000002, 16, toBE 16 0xdc98f981162dab2611f2bf29abdb48de) := by decide +kernel

/-- 95_test_vectors.md L2.8: GOST with a key of 31 bytes; the message stays. -/
theorem test_gost_short_key :
    seen (step (running 2 0x1000 31 0x1100 9 0x1200)) 0x1100 9 = some (0x00000206, 0, msg) := by
  decide +kernel

/-- 95_test_vectors.md L2.8: OP 3 completes with ILLEGAL_CMD, put where the engine takes its next word. -/
theorem test_fetched_illegal_word :
    seen (step (State.reset.withFetchWord 32 3)) 0 0 = some (0x00000106, 0, []) := by decide

/-- 95_test_vectors.md L2.8: the STATUS word with DONE, OVR and ERRCODE 2 set, and writes to it. -/
theorem test_status_write_one_to_clear :
    statusWord (clearStatus 0x00000002 { idle with done := true, ovr := true, errcode := 2 }) = 0x20C ∧
      statusWord (clearStatus 0xFFFFFFF5 { idle with done := true, ovr := true, errcode := 2 }) =
        0x20E := by decide

/-! ### Witnesses: the hypotheses of each statement are met -/

/-- A range below 0x10000 is admitted. -/
theorem admits {addr len : Nat} (h : addr + len ≤ 0x10000) : ¬ unadmitted params addr len := by
  rintro ⟨_, h2 | ⟨i, hi, h3⟩⟩
  · omega
  · have : decide (addr + i < 0x10000) = true := decide_eq_true (by omega)
    simp [memAdmits, params, inRegion] at h3
    omega

/-- The hypotheses both command statements share, for a message of 9 bytes at 0x1100 to 0x1200. -/
theorem apart {k : Nat} (hk : k ≤ 0x100) (a : Nat) (h : within 0x1200 ((9 + 7) / 8 * 8) a) :
    ¬ within 0x1000 k a ∧ ¬ within 0x1100 9 a := by
  simp only [within] at *
  omega

theorem witness_IllegalWordCompletesWithError :
    idle.seq = .idle ∧ (0x00000000 : Word) ≠ 0x00000001 ∧ (0x00000003 : Word) ≠ 0x00000002 ∧
      ∃ t, engineStep (hostAct (.regWrite .word 0x00 0x00000003) idle) = .next t ∧ t.errcode = 1 :=
  ⟨rfl, by decide, by decide, _, rfl, rfl⟩

theorem witness_StepRunsLatchedCommand :
    (nextMover des = .engine ∧ des.seq = .busy ∧ latchedCommand des = .instr .desEcbEncrypt) ∧
      nextMover gost = .engine ∧ gost.seq = .busy ∧ latchedCommand gost = .instr .gostEcbEncrypt := by
  decide

theorem witness_IdleEngineChangesNothing :
    (({ idle with sched := [.engine] } : State).seq = .idle ∧
      nextMover { idle with sched := [.engine] } = .engine) ∧ State.reset.final ∧
      State.reset.sched = [] := ⟨by decide, ⟨rfl, rfl, rfl⟩, rfl⟩

theorem witness_HostTurnRunsOperation :
    (nextMover (withOp (.memRead 0x1000) idle) = .host ∧
      (withOp (.memRead 0x1000) idle).prog = .memRead 0x1000 :: []) ∧
      nextMover (withOp .waitIrq des) = .host ∧ (withOp .waitIrq des).prog = .waitIrq :: [] :=
  ⟨⟨rfl, rfl⟩, rfl, rfl⟩

theorem witness_CommandAccepted : idle.seq = .idle := rfl

theorem witness_CommandDroppedWhileBusy : des.seq = .busy := rfl

/-- A running machine meets the invariant. -/
theorem des_inv : des.Inv :=
  ⟨by decide +kernel, by decide, by decide, fun _ => rfl, fun _ => ⟨rfl, rfl, rfl⟩,
    fun h => by simp [des, running] at h⟩

/-- An idle machine meets the invariant. -/
theorem idle_inv : idle.Inv :=
  ⟨by decide +kernel, by decide, by decide, fun _ => rfl, fun h => by simp [idle, State.reset] at h,
    fun _ => rfl⟩

theorem witness_RegisterWriteEffects :
    (des.Inv ∧ des.seq = .busy) ∧ (0x24 ≤ (0x24 : BitVec 6).toNat ∧ (0x24 : BitVec 6).toNat % 4 = 0) ∧
      0x24 ≤ (0x3C : BitVec 6).toNat ∧ (0x3C : BitVec 6).toNat % 4 = 0 :=
  ⟨⟨des_inv, rfl⟩, by decide, by decide⟩

theorem witness_RegisterReadValues :
    (0x24 ≤ (0x24 : BitVec 6).toNat ∧ (0x24 : BitVec 6).toNat % 4 = 0) ∧
      0x24 ≤ (0x3C : BitVec 6).toNat ∧ (0x3C : BitVec 6).toNat % 4 = 0 := by decide

theorem witness_UndefinedRegisterAccess :
    AccessSize.byte ≠ .word ∧ AccessSize.half ≠ .word ∧ (0x3F : BitVec 6).toNat % 4 ≠ 0 ∧
      AccessSize.word = .word ∧ (0x3C : BitVec 6).toNat % 4 = 0 := by decide

theorem witness_PollRepeatsUntilMatch :
    (withOp (.poll .status 2 2) des).prog = .poll .status 2 2 :: [] := rfl

/-- The four clauses: the last admitted address and the first past it, idle; the ends of the three ranges,
and a byte just past the output range, running; and a running command with a range that is not admitted. -/
theorem witness_HostMemoryAccess :
    (memAdmits idle.params (0xFFFF : Word).toNat = true ∧ ¬ hazardAt idle (0xFFFF : Word).toNat) ∧
      (memAdmits idle.params (0x10000 : Word).toNat = false ∧ ¬ hazardAt idle (0x10000 : Word).toNat) ∧
      (memAdmits des.params (0x1210 : Word).toNat = true ∧ ¬ hazardAt des (0x1210 : Word).toNat) ∧
      (memAdmits des.params (0x1007 : Word).toNat = true ∧ hazardAt des (0x1007 : Word).toNat ∧
        hazardAt des (0x1108 : Word).toNat ∧ hazardAt des (0x120F : Word).toNat) ∧
      memAdmits params (0x10000 : Word).toNat = false ∧
      hazardAt (running 1 0x1000 8 0x1100 9 0xFFF8) (0x10000 : Word).toNat := by
  simp only [hazardAt, within]
  decide

theorem witness_ResetEventValues :
    nextMover { des with sched := [.reset] } = .reset ∧ idle.seq = .idle := by decide

theorem des_passes : passes .desEcbEncrypt des :=
  ⟨by decide, rfl, admits (by decide), admits (by decide), admits (by decide),
    fun a h => apart (k := 8) (by decide) a h⟩

theorem gost_passes : passes .gostEcbEncrypt gost :=
  ⟨by decide, rfl, admits (by decide), admits (by decide), admits (by decide),
    fun a h => apart (k := 32) (by decide) a h⟩

theorem witness_ResetAbandonsCommand :
    (des.seq = .busy ∧ passes .desEcbEncrypt des ∧
      within des.lat.dstAddr.toNat ((des.lat.srcLen.toNat + 7) / 8 * 8) 0x120F ∧
      ¬ within des.lat.dstAddr.toNat ((des.lat.srcLen.toNat + 7) / 8 * 8) 0x1210) ∧
      (running 1 0x1000 7 0x1100 9 0x1200).seq = .busy ∧
      ∀ i, ¬ passes i (running 1 0x1000 7 0x1100 9 0x1200) := by
  refine ⟨⟨rfl, des_passes, ?_, ?_⟩, rfl, ?_⟩
  · simp only [within]
    decide
  · simp only [within]
    decide
  · rintro i ⟨_, h, _⟩
    cases i <;> revert h <;> decide

theorem witness_DesCommandEncrypts :
    des.lat.keyLen = 8 ∧ ¬ unadmitted des.params des.lat.keyAddr.toNat 8 ∧
      ¬ unadmitted des.params des.lat.srcAddr.toNat des.lat.srcLen.toNat ∧
      ¬ unadmitted des.params des.lat.dstAddr.toNat ((des.lat.srcLen.toNat + 7) / 8 * 8) ∧
      ∀ a, within des.lat.dstAddr.toNat ((des.lat.srcLen.toNat + 7) / 8 * 8) a →
        ¬ within des.lat.keyAddr.toNat 8 a ∧ ¬ within des.lat.srcAddr.toNat des.lat.srcLen.toNat a :=
  ⟨rfl, admits (by decide), admits (by decide), admits (by decide), fun a h => apart (by decide) a h⟩

theorem witness_GostCommandEncrypts :
    gost.lat.keyLen = 32 ∧ ¬ unadmitted gost.params gost.lat.keyAddr.toNat 32 ∧
      ¬ unadmitted gost.params gost.lat.srcAddr.toNat gost.lat.srcLen.toNat ∧
      ¬ unadmitted gost.params gost.lat.dstAddr.toNat ((gost.lat.srcLen.toNat + 7) / 8 * 8) ∧
      ∀ a, within gost.lat.dstAddr.toNat ((gost.lat.srcLen.toNat + 7) / 8 * 8) a →
        ¬ within gost.lat.keyAddr.toNat 32 a ∧ ¬ within gost.lat.srcAddr.toNat gost.lat.srcLen.toNat a :=
  ⟨rfl, admits (by decide), admits (by decide), admits (by decide), fun a h => apart (by decide) a h⟩

theorem witness_KeyLengthError :
    (running 1 0x1000 7 0x1100 9 0x1200).lat.keyLen ≠ 8 ∧
      (running 1 0x1000 9 0x1100 9 0x1200).lat.keyLen ≠ 8 ∧
      (running 2 0x1000 31 0x1100 9 0x1200).lat.keyLen ≠ 32 ∧
      (running 2 0x1000 33 0x1100 0 0x1200).lat.keyLen ≠ 32 := by decide

/-- Each of the three ranges past the admitted addresses, by one byte or by a wrap (95_test_vectors.md L2.8). -/
theorem witness_RangeError :
    (unadmitted params 0xFFFC 8 ∧ unadmitted params 0xFFF8 9 ∧ unadmitted params 0xFFF8 ((9 + 7) / 8 * 8) ∧
      unadmitted params 0xFFFFFFF8 ((9 + 7) / 8 * 8)) ∧
      (running 1 0xFFFC 8 0x1100 9 0x1200).lat.keyLen.toNat = keyBytes .desEcbEncrypt ∧
      (running 2 0x1000 32 0xFFF8 9 0x1200).lat.keyLen.toNat = keyBytes .gostEcbEncrypt :=
  ⟨⟨⟨by decide, Or.inr ⟨4, by decide, by decide⟩⟩, ⟨by decide, Or.inr ⟨8, by decide, by decide⟩⟩,
    ⟨by decide, Or.inr ⟨15, by decide, by decide⟩⟩, ⟨by decide, Or.inl (by decide)⟩⟩, rfl, rfl⟩

/-- The output one byte into the key, and one byte into the message (95_test_vectors.md L2.8). -/
theorem witness_OverlapError :
    (within 0x1004 ((9 + 7) / 8 * 8) 0x1007 ∧ within 0x1000 8 0x1007) ∧
      (within 0x10F8 ((9 + 7) / 8 * 8) 0x1107 ∧ within 0x1100 9 0x1107) ∧
      (running 1 0x1000 8 0x1100 9 0x1004).lat.keyLen.toNat = keyBytes .desEcbEncrypt ∧
      ¬ unadmitted params 0x1000 8 ∧ ¬ unadmitted params 0x1100 9 ∧
      ¬ unadmitted params 0x1004 ((9 + 7) / 8 * 8) ∧ ¬ unadmitted params 0x10F8 ((9 + 7) / 8 * 8) := by
  refine ⟨?_, ?_, rfl, admits (by decide), admits (by decide), admits (by decide), admits (by decide)⟩
  · simp only [within]
    decide
  · simp only [within]
    decide

theorem witness_ErrorPriority :
    (∀ i, latchedCommand (running 3 0x1000 7 0x1100 9 0x1100) ≠ .instr i) ∧
      latchedCommand (running 1 0x1000 8 0x1100 9 0x1100) = .instr .desEcbEncrypt := by
  refine ⟨?_, by decide⟩
  intro i
  cases i <;> decide

/-- Every command answers a next state, whatever the state. -/
theorem witness_CommandFrame : ∀ (i : Instr) (s : State), ∃ t, exec i s = .next t := by
  intro i s
  cases i <;> exact ⟨_, rfl⟩

/-- Two machines that differ in a byte no command range covers. -/
theorem witness_OutcomeDependsOnInputsOnly :
    des.lat = ({ des with mem := writeByte des.mem 0 0x55, ovr := true } : State).lat ∧
      des ≠ { des with mem := writeByte des.mem 0 0x55, ovr := true } ∧
      ∀ a, within des.lat.keyAddr.toNat des.lat.keyLen.toNat a ∨
        within des.lat.srcAddr.toNat des.lat.srcLen.toNat a →
        readByte des.mem a = readByte (writeByte des.mem 0 0x55) a := by
  refine ⟨rfl, fun h => ?_, fun a h => ?_⟩
  · have : des.ovr = true := congrArg State.ovr h
    exact absurd this (by decide)
  · rw [readByte_writeByte, if_neg]
    rintro rfl
    rcases h with h | h <;> revert h <;> simp only [within] <;> decide

theorem witness_ParameterWritesLeaveRunningCommand :
    (Reg.keyAddr = .keyAddr) ∧ (Reg.intEn = .intEn) ∧ ∃ t, exec .gostEcbEncrypt gost = .next t :=
  ⟨rfl, rfl, _, rfl⟩

theorem witness_EmptyMessageSucceeds :
    (running 1 0x1000 8 0xFFFF0000 0 0x20000).lat.keyLen.toNat = keyBytes .desEcbEncrypt ∧
      (running 1 0x1000 8 0xFFFF0000 0 0x20000).lat.srcLen = 0 ∧ ¬ unadmitted params 0x1000 8 :=
  ⟨rfl, rfl, admits (by decide)⟩

theorem witness_OutputLengthFits : passes .desEcbEncrypt des ∧ passes .gostEcbEncrypt gost :=
  ⟨des_passes, gost_passes⟩

theorem witness_StepKeepsMachineInvariant :
    des.Inv ∧ (∃ t, step des = .next t) ∧ idle.Inv ∧ ∃ t, step idle = .next t :=
  ⟨des_inv, ⟨_, rfl⟩, idle_inv, _, rfl⟩

/-- A CMD write starts a command, the engine's step and a reset end one. -/
theorem witness_SequencerTransitions :
    (∃ t, step (withOp (.regWrite .word 0x00 0x00000001) idle) = .next t ∧ idle.seq = .idle ∧
      t.seq = .busy) ∧
      (∃ t, step (running 3 0 0 0 0 0) = .next t ∧ nextMover (running 3 0 0 0 0 0) = .engine ∧
        t.seq = .idle) ∧
      ∃ t, step { des with sched := [.reset] } = .next t ∧ des.seq = .busy ∧ t.seq = .idle :=
  ⟨⟨_, rfl, rfl, rfl⟩, ⟨_, rfl, rfl, rfl⟩, _, rfl, rfl, rfl⟩

/-- A host write changes a byte. -/
theorem witness_MemoryChangesOnlyByRule_host :
    ∃ t, step (withOp (.memWrite 0x1000 0xFF) idle) = .next t ∧
      readByte t.mem 0x1000 ≠ readByte idle.mem 0x1000 := by
  refine ⟨_, rfl, ?_⟩
  decide

/-- The engine's step changes a byte. -/
theorem witness_MemoryChangesOnlyByRule_engine :
    ∃ t, step { des with mem := writeByte des.mem 0x1200 0 } = .next t ∧
      readByte t.mem 0x1200 ≠ readByte (writeByte des.mem 0x1200 0) 0x1200 := by
  refine ⟨_, rfl, ?_⟩
  decide +kernel

/-- A reset changes a byte of a running command's output range, here one that is not the byte it draws. -/
theorem witness_MemoryChangesOnlyByRule_reset :
    ∃ (s : State) (t : State), step s = .next t ∧ nextMover s = .reset ∧ s.seq = .busy ∧
      readByte t.mem 0x1200 ≠ readByte s.mem 0x1200 := by
  refine ⟨{ running 1 0x1000 8 0x1100 1 0x1200 with
    mem := [(0x1200, Config.drawnByte 0 + 1)], sched := [.reset] }, _, rfl, rfl, rfl, ?_⟩
  have h : ∀ b : Byte, b ≠ b + 1 := by decide
  exact h (Config.drawnByte 0)

/-- OVR set by a dropped CMD write, cleared by a STATUS write and by reset. -/
theorem witness_OverrunChangesOnlyByRule :
    (∃ t, step (withOp (.regWrite .word 0x00 2) des) = .next t ∧ t.ovr ≠ des.ovr) ∧
      (∃ t, step (withOp (.regWrite .word 0x04 8) { idle with ovr := true }) = .next t ∧ t.ovr = false) ∧
      ∃ t, step { idle with ovr := true, sched := [.reset] } = .next t ∧ t.ovr = false :=
  ⟨⟨_, rfl, by decide⟩, ⟨_, rfl, rfl⟩, _, rfl, rfl⟩

/-- DONE set by the engine, cleared by an accepted CMD write, a STATUS write and a reset. -/
theorem witness_DoneChangesOnlyByRule :
    (∃ t, step (running 0 0 0 0 0 0) = .next t ∧ t.done ≠ (running 0 0 0 0 0 0).done) ∧
      (∃ t, step (withOp (.regWrite .word 0x00 1) { idle with done := true }) = .next t ∧
        t.done = false) ∧
      (∃ t, step (withOp (.regWrite .word 0x04 2) { idle with done := true }) = .next t ∧
        t.done = false) ∧
      ∃ t, step { idle with done := true, sched := [.reset] } = .next t ∧ t.done = false :=
  ⟨⟨_, rfl, by decide⟩, ⟨_, rfl, rfl⟩, ⟨_, rfl, rfl⟩, _, rfl, rfl⟩

/-- IRQ lowered by each of its four events. -/
theorem witness_InterruptClearedOnlyByRule :
    irq { idle with done := true, doneIe := true } = true ∧
      (∃ t, step (withOp (.regWrite .word 0x04 2) { idle with done := true, doneIe := true }) = .next t ∧
        irq t = false) ∧
      (∃ t, step (withOp (.regWrite .word 0x00 1) { idle with done := true, doneIe := true }) = .next t ∧
        irq t = false) ∧
      (∃ t, step (withOp (.regWrite .word 0x20 0) { idle with done := true, doneIe := true }) = .next t ∧
        irq t = false) ∧
      ∃ t, step { idle with done := true, doneIe := true, sched := [.reset] } = .next t ∧
        irq t = false :=
  ⟨rfl, ⟨_, rfl, rfl⟩, ⟨_, rfl, rfl⟩, ⟨_, rfl, rfl⟩, _, rfl, rfl⟩

/-- A host access to a byte of a running command's key records a fault. -/
theorem witness_FaultsAreNeverCleared :
    ∃ t, step (withOp (.memRead 0x1000) des) = .next t ∧ t.faults = [.bufferHazard] := ⟨_, rfl, rfl⟩

theorem witness_ParametersNeverChange : ∃ t, step { gost with sched := [.reset] } = .next t := ⟨_, rfl⟩

theorem witness_WaitDoneTerminates :
    ({ des with prog := waitDone ++ ackCompletion } : State).seq = .busy ∧
      ({ des with prog := waitDone ++ ackCompletion } : State).sched = [] ∧
      ({ des with prog := waitDone ++ ackCompletion } : State).prog = waitDone ++ ackCompletion :=
  ⟨rfl, rfl, rfl⟩

/-- Both blocks of a message of 9 bytes, under the DES block function of any subkeys. -/
theorem witness_BlockOutputPlacement (ks : List (BitVec 48)) :
    (∀ b, b.length = 8 → (desBlockBytes ks b).length = 8) ∧ 0 < (msg.length + 7) / 8 ∧
      1 < (msg.length + 7) / 8 := ⟨fun b _ => length_desBlockBytes ks b, by decide, by decide⟩

/-- "Test Data" and the same with two zero bytes (95_test_vectors.md L1.3). -/
theorem witness_PaddingTransparency :
    (msg.length + 7) / 8 = ((msg ++ [0, 0]).length + 7) / 8 ∧
      ∀ j, msg.getD j 0 = (msg ++ [0, 0]).getD j 0 := by
  refine ⟨by decide, fun j => ?_⟩
  rcases Nat.lt_or_ge j 11 with h | h
  · revert h
    revert j
    decide
  · rw [List.getD_eq_default _ _ (by simp [msg]; omega), List.getD_eq_default _ _ (by simp [msg]; omega)]

theorem witness_DesBytePacking : (msg.take 8).length = 8 := by decide

/-- "01234567" and the same with every low bit flipped (95_test_vectors.md L2.4). -/
theorem witness_ParityBitsIgnored :
    (key.take 8).length = 8 ∧ ((key.take 8).map (· ^^^ 1)).length = 8 ∧
      ∀ j, (key.take 8).getD j 0 >>> 1 = ((key.take 8).map (· ^^^ 1)).getD j 0 >>> 1 := by
  refine ⟨by decide, by decide, fun j => ?_⟩
  rcases Nat.lt_or_ge j 8 with h | h
  · revert h
    revert j
    decide
  · rw [List.getD_eq_default _ _ (by simp [key]; omega), List.getD_eq_default _ _ (by simp [key]; omega)]

/-- Keys with each pair of uniform halves. -/
theorem witness_WeakKeysRepeatSubkeys :
    desHalves 0x0101010101010101#64 = (0, 0) ∧
      desHalves 0xFEFEFEFEFEFEFEFE#64 = (BitVec.allOnes 28, BitVec.allOnes 28) ∧
      desHalves 0xE0E0E0E0F1F1F1F1#64 = (BitVec.allOnes 28, 0) ∧
      desHalves 0x1F1F1F1F0E0E0E0E#64 = (0, BitVec.allOnes 28) := by decide +kernel

theorem witness_SboxOutputPlacement : 0 < 8 ∧ 7 < 8 := by decide

theorem witness_DesRoundFunctionBits : 0 < 48 ∧ 47 < 48 ∧ 0 < 32 ∧ 31 < 32 := by decide

/-- The first and the last byte of "Test Data" and of a read of nine bytes. -/
theorem witness_PseudoInstructionsExpand : 0 < msg.length ∧ 8 < msg.length ∧ 0 < 9 ∧ 8 < 9 := by decide

theorem witness_DesRoundsAsStated : (desSchedule 0x3031323334353637#64).length = 16 := by decide

theorem witness_GostSubkeySlices : key.length = 32 ∧ 0 < 8 ∧ 7 < 8 := by decide

theorem witness_GostCornerCases :
    (msg.take 8).length = 8 ∧ key = (List.range 32).map (fun i => BitVec.ofNat 8 (0x30 + i % 10)) :=
  ⟨by decide, rfl⟩

end Sys2Proof.Tests
end

section
/-! What the next step is for each mover, and what a host operation leaves alone (R20, R26 to R29, R41):
the rules the statements about the state's fields are assembled from. -/

namespace Sys2Proof.Proofs

open Sys2Proof Sys2Proof.Machine Sys2Proof.Claims

/-! ### The step of each mover -/

theorem step_of_host {s : State} (hm : nextMover s = .host) :
    step s = .next (hostStep (takeTurn s)) := by
  simp [step, hm]

theorem step_of_reset {s : State} (hm : nextMover s = .reset) :
    step s = .next (resetEvent (takeTurn s)) := by
  simp [step, hm]

theorem step_of_engine_idle {s : State} (hm : nextMover s = .engine) (hs : s.seq = .idle) :
    step s = .next (takeTurn s) := by
  simp [step, hm, busy, hs]

theorem takeTurn_of_sched_nil {s : State} (h : s.sched = []) : takeTurn s = s := by
  rw [takeTurn, h, List.tail_nil, ← h]

theorem nextMover_of_sched_nil_idle {s : State} (h : s.sched = []) (hs : s.seq = .idle) :
    nextMover s = .host := by
  simp [nextMover, h, busy, hs]

theorem hostStep_of_prog_nil {s : State} (h : s.prog = []) : hostStep s = s := by
  simp [hostStep, h]

/-- A host's step in full, once its next operation is known. -/
theorem hostStep_of_prog_cons {s : State} {op : HostOp} {rest : List HostOp} (h : s.prog = op :: rest) :
    hostStep s = if hostOpDone op (hostAct op s) then { hostAct op s with prog := rest }
      else hostAct op s := by
  simp [hostStep, h]

/-- Only a `POLL` and a wait for IRQ can outlast one step (R86, R89). -/
theorem hostOpDone_of_not_waiting {op : HostOp} (hp : ∀ r mask val, op ≠ .poll r mask val)
    (hw : op ≠ .waitIrq) (s : State) : hostOpDone op s = true := by
  cases op with
  | regWrite | regRead | memWrite | memRead => rfl
  | poll r mask val => exact absurd rfl (hp r mask val)
  | waitIrq => exact absurd rfl hw

/-! ### The host's writes to CMD, STATUS and INT_EN -/

theorem hostAct_write_cmd_of_idle {s : State} (w : Word) (hs : s.seq = .idle) :
    hostAct (.regWrite .word 0x00 w) s = acceptCommand w s :=
  if_neg (by simp [hs])

theorem hostAct_write_cmd_of_busy {s : State} (w : Word) (hs : s.seq = .busy) :
    hostAct (.regWrite .word 0x00 w) s = dropCommand s :=
  if_pos (by simp [hs])

theorem hostAct_write_status (w : Word) (s : State) :
    hostAct (.regWrite .word 0x04 w) s = clearStatus w s := rfl

theorem hostAct_write_intEn (w : Word) (s : State) :
    hostAct (.regWrite .word 0x20 w) s = { s with doneIe := w.getLsbD 0 } := rfl

/-! ### The control fields of a step -/

/-- Two states agree on the sequencer, the latch, DONE and OVR: what R22, R27, R29 and R39 give rules for. -/
structure SameControl (s t : State) : Prop where
  seq : t.seq = s.seq
  lat : t.lat = s.lat
  done : t.done = s.done
  ovr : t.ovr = s.ovr

/-- A host operation other than a write to CMD or STATUS leaves the control fields alone (R194 to R196). -/
theorem hostAct_sameControl (op : HostOp) (s : State) :
    (∃ w, op = .regWrite .word 0x00 w) ∨ (∃ w, op = .regWrite .word 0x04 w) ∨
      SameControl s (hostAct op s) := by
  rcases hostAct_cases op s with ⟨f, h⟩ | ⟨f, g, h⟩ | ⟨v, h⟩ | ⟨bs, h⟩ | h | ⟨a, b, -, -, h⟩ |
    ⟨o, r, w, rfl, rfl, h⟩
  case inr.inr.inr.inr.inr.inr =>
    cases r with
    | cmd => exact .inl ⟨w, rfl⟩
    | status => exact .inr (.inl ⟨w, rfl⟩)
    | keyAddr | keyLen | srcAddr | srcLen | dstAddr | outLen | intEn =>
      rw [h]
      exact .inr (.inr ⟨rfl, rfl, rfl, rfl⟩)
  all_goals
    rw [h]
    exact .inr (.inr ⟨rfl, rfl, rfl, rfl⟩)

/-- The step in which the host does a given operation, but for where its program stands afterwards. -/
theorem eq_hostAct_of_hostDoes {s t : State} {op : HostOp} (hop : hostDoes s op)
    (h : step s = .next t) : ∃ p, t = { hostAct op (takeTurn s) with prog := p } := by
  obtain ⟨hm, hhead⟩ := hop
  obtain rfl : hostStep (takeTurn s) = t := by simpa [step_of_host hm] using h
  rcases hostStep_cases (takeTurn s) with ⟨hnil, -⟩ | ⟨op', rest, p, hcons, heq⟩
  · simp_all
  · obtain rfl : op' = op := by simp_all
    exact ⟨p, heq⟩

/-- The engine's step completes the command, with an error or not (R26, R27, R191). -/
theorem step_completes {s t : State} (h : step s = .next t) (hm : nextMover s = .engine)
    (hs : s.seq = .busy) : t.seq = .idle ∧ t.done = true ∧ t.ovr = s.ovr := by
  rcases step_cases h with ⟨hm', -⟩ | ⟨-, hs', -⟩ | ⟨-, -, c, -, rfl⟩ | ⟨-, -, i, -, -, rfl⟩ | ⟨hm', -⟩
  · simp [hm] at hm'
  · simp [hs] at hs'
  · exact ⟨rfl, rfl, rfl⟩
  · exact ⟨rfl, rfl, rfl⟩
  · simp [hm] at hm'

/-- A reset leaves the engine IDLE with DONE and OVR clear (R240). -/
theorem step_resets {s t : State} (h : step s = .next t) (hm : nextMover s = .reset) :
    t.seq = .idle ∧ t.done = false ∧ t.ovr = false := by
  obtain rfl : resetEvent (takeTurn s) = t := by simpa [step_of_reset hm] using h
  exact ⟨rfl, rfl, rfl⟩

/-- A CMD write while IDLE is accepted (R188). -/
theorem step_accepts {s t : State} {w : Word} (h : step s = .next t) (hs : s.seq = .idle)
    (hop : hostDoes s (.regWrite .word 0x00 w)) :
    t.seq = .busy ∧ t.lat = (acceptCommand w s).lat ∧ t.done = false ∧ t.ovr = s.ovr := by
  obtain ⟨p, rfl⟩ := eq_hostAct_of_hostDoes hop h
  rw [hostAct_write_cmd_of_idle w (s := takeTurn s) hs]
  exact ⟨rfl, rfl, rfl, rfl⟩

/-- A CMD write while BUSY is dropped and noted in OVR (R189). -/
theorem step_drops {s t : State} {w : Word} (h : step s = .next t) (hs : s.seq = .busy)
    (hop : hostDoes s (.regWrite .word 0x00 w)) :
    t.seq = .busy ∧ t.done = s.done ∧ t.ovr = true := by
  obtain ⟨p, rfl⟩ := eq_hostAct_of_hostDoes hop h
  rw [hostAct_write_cmd_of_busy w (s := takeTurn s) hs]
  exact ⟨hs, rfl, rfl⟩

/-- A STATUS write clears DONE and OVR where it has a one (R194). -/
theorem step_clears {s t : State} {w : Word} (h : step s = .next t)
    (hop : hostDoes s (.regWrite .word 0x04 w)) :
    t.seq = s.seq ∧ t.done = (s.done && !w.getLsbD 1) ∧ t.ovr = (s.ovr && !w.getLsbD 3) := by
  obtain ⟨p, rfl⟩ := eq_hostAct_of_hostDoes hop h
  exact ⟨rfl, rfl, rfl⟩

/-- A bit changed by write-one-to-clear was written with a one. -/
theorem eq_true_of_and_not_ne {b c : Bool} (h : (b && !c) ≠ b) : c = true := by
  revert b c
  decide

/-- The four events that can move a control field: a reset, the engine's step, and the host's writes to
CMD and to STATUS. -/
theorem step_control_cases {s t : State} (h : step s = .next t) :
    nextMover s = .reset ∨ (nextMover s = .engine ∧ s.seq = .busy) ∨
      (∃ w, hostDoes s (.regWrite .word 0x00 w)) ∨ (∃ w, hostDoes s (.regWrite .word 0x04 w)) ∨
      SameControl s t := by
  rcases step_cases h with ⟨hm, rfl⟩ | ⟨-, -, rfl⟩ | ⟨hm, hs, -⟩ | ⟨hm, hs, -⟩ | ⟨hm, -⟩
  · rcases hostStep_cases (takeTurn s) with ⟨-, heq⟩ | ⟨op, rest, p, hprog, heq⟩
    · rw [heq]
      exact .inr (.inr (.inr (.inr ⟨rfl, rfl, rfl, rfl⟩)))
    · have hop : hostDoes s op := ⟨hm, by rw [← takeTurn_prog, hprog]; rfl⟩
      rcases hostAct_sameControl op (takeTurn s) with ⟨w, rfl⟩ | ⟨w, rfl⟩ | hsame
      · exact .inr (.inr (.inl ⟨w, hop⟩))
      · exact .inr (.inr (.inr (.inl ⟨w, hop⟩)))
      · rw [heq]
        exact .inr (.inr (.inr (.inr ⟨hsame.seq, hsame.lat, hsame.done, hsame.ovr⟩)))
  · exact .inr (.inr (.inr (.inr ⟨rfl, rfl, rfl, rfl⟩)))
  · exact .inr (.inl ⟨hm, hs⟩)
  · exact .inr (.inl ⟨hm, hs⟩)
  · exact .inl hm

/-! ### The parameters -/

theorem writeReg_params (r : Reg) (w : Word) (s : State) : (writeReg r w s).params = s.params := by
  cases r with
  | cmd =>
    rw [writeReg]
    split <;> rfl
  | status | keyAddr | keyLen | srcAddr | srcLen | dstAddr | outLen | intEn => rfl

theorem hostAct_params (op : HostOp) (s : State) : (hostAct op s).params = s.params := by
  rcases hostAct_cases op s with ⟨f, h⟩ | ⟨f, g, h⟩ | ⟨v, h⟩ | ⟨bs, h⟩ | h | ⟨a, b, -, -, h⟩ |
    ⟨o, r, w, -, -, h⟩
  case inr.inr.inr.inr.inr.inr =>
    rw [h]
    exact writeReg_params r w s
  all_goals simp [h]

theorem hostStep_params (s : State) : (hostStep s).params = s.params := by
  rcases hostStep_cases s with ⟨-, h⟩ | ⟨op, rest, p, -, h⟩
  · rw [h]
  · rw [h]; exact hostAct_params op s

theorem resetEvent_params (s : State) : (resetEvent s).params = s.params := by
  rcases abandonCommand_cases s with ⟨h, -⟩ | ⟨-, -, h⟩ <;> rw [resetEvent, h] <;> rfl

end Sys2Proof.Proofs
end

section
/-! Arithmetic of block addresses and ranges (R23, R78, R79). -/

namespace Sys2Proof.Proofs

open Sys2Proof Sys2Proof.Machine Sys2Proof.Claims

/-- A distance below 64 and its low six bits determine each other. -/
theorem lt_64_and_setWidth_eq_iff (d : Word) (o : BitVec 6) :
    d.toNat < 64 ∧ d.setWidth 6 = o ↔ d = o.setWidth 32 := by
  constructor
  · rintro ⟨hlt, rfl⟩
    apply BitVec.eq_of_toNat_eq
    simp only [BitVec.toNat_setWidth]
    omega
  · rintro rfl
    refine ⟨?_, BitVec.eq_of_toNat_eq ?_⟩ <;> simp only [BitVec.toNat_setWidth] <;> omega

/-- `blockOffset` by the distance of the address from `REG_BASE`. -/
theorem blockOffset_eq_some_iff (p : Params) (addr : Word) (o : BitVec 6) :
    blockOffset p addr = some o ↔ addr - p.regBase = o.setWidth 32 := by
  rw [← lt_64_and_setWidth_eq_iff, blockOffset]
  simp

theorem add_le_of_not_unadmitted {p : Params} {addr len : Nat} (h : ¬ unadmitted p addr len)
    (hlen : 0 < len) : addr + len ≤ 2 ^ 32 := by
  by_contra hgt
  exact h ⟨hlen, .inl (by omega)⟩

theorem keyBytes_pos (i : Instr) : 0 < keyBytes i := by cases i <;> decide

/-- The first byte of a non-empty range. -/
theorem within_self {addr len : Nat} (h : 0 < len) : within addr len addr := ⟨le_rfl, by omega⟩

end Sys2Proof.Proofs
end

section
/-! The statements of the family 10_state.md. -/

namespace Sys2Proof.Proofs

open Sys2Proof Sys2Proof.Machine Sys2Proof.Claims

/-- Settles O14: both sides say how far the address lies from `REG_BASE`. -/
theorem blockAddressing : Obligations.BlockAddressing := by
  intro p addr o
  rw [blockOffset_eq_some_iff, BitVec.sub_eq_iff_eq_add, BitVec.add_comm]

/-- Settles O32: an output of 2^32 bytes would be the whole address space and so share a byte with the
key, which is not empty. -/
theorem outputLengthFits : Obligations.OutputLengthFits := by
  rintro i s ⟨-, hkeyLen, -, -, hdst, happart⟩
  by_contra hbig
  have hspan := add_le_of_not_unadmitted hdst (by omega)
  have hdstKey : within s.lat.dstAddr.toNat ((s.lat.srcLen.toNat + 7) / 8 * 8) s.lat.keyAddr.toNat :=
    ⟨by omega, by omega⟩
  have hkeyPos : 0 < s.lat.keyLen.toNat := hkeyLen ▸ keyBytes_pos i
  exact (happart _ hdstKey).1 (within_self hkeyPos)

/-- Settles O35, by the four events that can move a control field. -/
theorem sequencerTransitions : Obligations.SequencerTransitions := by
  intro s t h
  refine ⟨fun hidle hbusy => ?_, fun w hidle hop => ?_, fun hbusy hidle => ?_, fun hbusy hm => ?_⟩
  · rcases step_control_cases h with hm | ⟨-, hs⟩ | ⟨w, hop⟩ | ⟨w, hop⟩ | hsame
    · simp [(step_resets h hm).1] at hbusy
    · simp [hidle] at hs
    · obtain ⟨-, hlat, -⟩ := step_accepts h hidle hop
      exact ⟨w, hop, hlat⟩
    · simp [(step_clears h hop).1, hidle] at hbusy
    · simp [hsame.seq, hidle] at hbusy
  · exact (step_accepts h hidle hop).1
  · rcases step_control_cases h with hm | ⟨hm, -⟩ | ⟨w, hop⟩ | ⟨w, hop⟩ | hsame
    · exact .inr hm
    · exact .inl hm
    · simp [(step_drops h hbusy hop).1] at hidle
    · simp [(step_clears h hop).1, hbusy] at hidle
    · simp [hsame.seq, hbusy] at hidle
  · rcases hm with hm | hm
    · exact (step_completes h hm hbusy).1
    · exact (step_resets h hm).1

/-- Settles O37, by the four events that can move a control field. -/
theorem overrunChangesOnlyByRule : Obligations.OverrunChangesOnlyByRule := by
  intro s t h
  refine ⟨fun w hbusy hop => ?_, fun w hw hop => ?_, fun hm => ?_, fun hne => ?_⟩
  · obtain ⟨-, -, hovr⟩ := step_drops h hbusy hop
    exact hovr
  · obtain ⟨-, -, hovr⟩ := step_clears h hop
    simp [hovr, hw]
  · obtain ⟨-, -, hovr⟩ := step_resets h hm
    exact hovr
  · rcases step_control_cases h with hm | ⟨hm, hs⟩ | ⟨w, hop⟩ | ⟨w, hop⟩ | hsame
    · exact .inr (.inr hm)
    · obtain ⟨-, -, hovr⟩ := step_completes h hm hs
      exact absurd hovr hne
    · cases hs : s.seq with
      | busy => exact .inl ⟨rfl, w, hop⟩
      | idle =>
        obtain ⟨-, -, -, hovr⟩ := step_accepts h hs hop
        exact absurd hovr hne
    · obtain ⟨-, -, hovr⟩ := step_clears h hop
      exact .inr (.inl ⟨w, eq_true_of_and_not_ne (hovr ▸ hne), hop⟩)
    · exact absurd hsame.ovr hne

/-- Settles O38, by the four events that can move a control field. -/
theorem doneChangesOnlyByRule : Obligations.DoneChangesOnlyByRule := by
  intro s t h
  refine ⟨fun hbusy hm => ?_, fun w hidle hop => ?_, fun w hw hop => ?_, fun hm => ?_, fun hne => ?_⟩
  · obtain ⟨-, hdone, -⟩ := step_completes h hm hbusy
    exact hdone
  · obtain ⟨-, -, hdone, -⟩ := step_accepts h hidle hop
    exact hdone
  · obtain ⟨-, hdone, -⟩ := step_clears h hop
    simp [hdone, hw]
  · obtain ⟨-, hdone, -⟩ := step_resets h hm
    exact hdone
  · rcases step_control_cases h with hm | ⟨hm, hs⟩ | ⟨w, hop⟩ | ⟨w, hop⟩ | hsame
    · exact .inr (.inr (.inr hm))
    · exact .inl ⟨hs, hm⟩
    · cases hs : s.seq with
      | busy =>
        obtain ⟨-, hdone, -⟩ := step_drops h hs hop
        exact absurd hdone hne
      | idle => exact .inr (.inl ⟨rfl, w, hop⟩)
    · obtain ⟨-, hdone, -⟩ := step_clears h hop
      exact .inr (.inr (.inl ⟨w, eq_true_of_and_not_ne (hdone ▸ hne), hop⟩))
    · exact absurd hsame.done hne

/-- Settles O41, by the kinds of step. -/
theorem parametersNeverChange : Obligations.ParametersNeverChange := by
  intro s t h
  rcases step_cases h with ⟨-, rfl⟩ | ⟨-, -, rfl⟩ | ⟨-, -, c, -, rfl⟩ | ⟨-, -, i, -, -, rfl⟩ | ⟨-, rfl⟩
  · exact hostStep_params (takeTurn s)
  · rfl
  · rfl
  · rfl
  · exact resetEvent_params (takeTurn s)

/-- Settles O6: the idle engine's turn is only used up, and a host without a program does nothing. -/
theorem idleEngineChangesNothing : Obligations.IdleEngineChangesNothing := by
  refine ⟨fun s hidle hm => step_of_engine_idle hm hidle, fun s hfinal hsched => ?_⟩
  obtain ⟨hidle, hprog, -⟩ := hfinal
  rw [step_of_host (nextMover_of_sched_nil_idle hsched hidle), takeTurn_of_sched_nil hsched,
    hostStep_of_prog_nil hprog]

/-- Settles O7: an operation that waits for nothing is over after its step, and a wait for IRQ is over
once IRQ is 1. -/
theorem hostTurnRunsOperation : Obligations.HostTurnRunsOperation := by
  intro s op rest hm hprog
  rw [step_of_host hm, hostStep_of_prog_cons (s := takeTurn s) hprog]
  refine ⟨fun hpoll hwait => ?_, ?_⟩
  · rw [hostOpDone_of_not_waiting hpoll hwait, if_pos rfl]
  · rintro rfl
    rfl

/-- Settles O12: IRQ is read off DONE_IE and DONE, and the INT_EN write sets the first of them. -/
theorem interruptLevel : Obligations.InterruptLevel := by
  intro s w
  rw [hostAct_write_intEn]
  exact ⟨by simp [irq], by simp [irq], rfl, rfl⟩

end Sys2Proof.Proofs
end

section
/-! Byte packing (R16, R63, R64), the legality of a register access (R67), and what each kind of step does
to memory (R78). -/

namespace Sys2Proof.Proofs

open Sys2Proof Sys2Proof.Machine Sys2Proof.Claims

/-! ### Byte packing -/

/-- A byte appended on the right is one more base-256 digit. -/
theorem toNat_append_byte {n : Nat} (v : BitVec n) (b : Byte) :
    (v ++ b).toNat = 256 * v.toNat + b.toNat := by
  rw [BitVec.toNat_append, ← Nat.shiftLeft_add_eq_or_of_lt b.isLt, Nat.shiftLeft_eq, Nat.mul_comm]

/-- MSB-first packing of eight bytes is their concatenation. -/
theorem beNat_eq_toNat_append (b0 b1 b2 b3 b4 b5 b6 b7 : Byte) :
    beNat [b0, b1, b2, b3, b4, b5, b6, b7] = (b0 ++ b1 ++ b2 ++ b3 ++ b4 ++ b5 ++ b6 ++ b7).toNat := by
  simp only [toNat_append_byte]
  simp [beNat]

theorem ofNat_beNat_eq_append (b0 b1 b2 b3 b4 b5 b6 b7 : Byte) :
    BitVec.ofNat 64 (beNat [b0, b1, b2, b3, b4, b5, b6, b7]) =
      b0 ++ b1 ++ b2 ++ b3 ++ b4 ++ b5 ++ b6 ++ b7 := by
  rw [beNat_eq_toNat_append, BitVec.ofNat_toNat, BitVec.setWidth_eq]

/-- Packing what was serialised gives the value back, cut to k bytes. -/
theorem leNat_toLE (k : Nat) : ∀ v, leNat (toLE k v) = v % 256 ^ k := by
  induction k with
  | zero => intro v; simp [toLE, leNat, Nat.mod_one]
  | succ k ih =>
    intro v
    calc leNat (toLE (k + 1) v) = v % 256 + 256 * leNat (toLE k (v / 256)) := by simp [toLE, leNat]
      _ = v % 256 ^ (k + 1) := by rw [ih, Nat.pow_succ', Nat.mod_mul]

theorem beNat_toBE (k v : Nat) : beNat (toBE k v) = v % 256 ^ k := by
  rw [beNat_eq_leNat_reverse, toBE, List.reverse_reverse, leNat_toLE]

/-- Serialising a 64-bit value MSB-first and packing it again gives it back. -/
theorem ofNat_beNat_toBE (v : BitVec 64) : BitVec.ofNat 64 (beNat (toBE 8 v.toNat)) = v := by
  have hlt : v.toNat < 256 ^ 8 := v.isLt
  rw [beNat_toBE, Nat.mod_eq_of_lt hlt, BitVec.ofNat_toNat, BitVec.setWidth_eq]

/-! ### Register accesses -/

theorem accessLegal_iff (z : AccessSize) (o : BitVec 6) :
    accessLegal z o = true ↔ z = .word ∧ o.toNat % 4 = 0 := by
  cases z <;> simp [accessLegal, wellFormedAccess, accessBytes]

theorem hostAct_regWrite_of_illegal {z : AccessSize} {o : BitVec 6} (h : ¬ accessLegal z o = true)
    (w : Word) (s : State) : hostAct (.regWrite z o w) s = recordFaults [.regAccessFault] s :=
  if_neg h

theorem hostAct_regRead_of_illegal {z : AccessSize} {o : BitVec 6} (h : ¬ accessLegal z o = true)
    (s : State) : hostAct (.regRead z o) s = recordFaults [.regAccessFault] s :=
  if_neg h

theorem hostAct_regWrite_of_legal {z : AccessSize} {o : BitVec 6} (h : accessLegal z o = true)
    (w : Word) (s : State) : hostAct (.regWrite z o w) s = writeOffset o w s :=
  if_pos h

theorem hostAct_regRead_of_legal {z : AccessSize} {o : BitVec 6} (h : accessLegal z o = true)
    (s : State) : hostAct (.regRead z o) s = { s with hostV := readOffset o s } :=
  if_pos h

/-- A register write touches neither memory nor the fault list (R194). -/
theorem writeReg_mem_faults (r : Reg) (w : Word) (s : State) :
    (writeReg r w s).mem = s.mem ∧ (writeReg r w s).faults = s.faults := by
  cases r with
  | cmd =>
    rw [writeReg]
    split <;> exact ⟨rfl, rfl⟩
  | status | keyAddr | keyLen | srcAddr | srcLen | dstAddr | outLen | intEn => exact ⟨rfl, rfl⟩

theorem writeOffset_faults (o : BitVec 6) (w : Word) (s : State) :
    (writeOffset o w s).faults = s.faults := by
  rw [writeOffset]
  split
  · exact (writeReg_mem_faults _ w s).2
  · rfl

/-! ### Memory -/

/-- A store changes bytes of its own range only. -/
theorem within_of_readByte_writeBytes_ne {m : List Host.Cell} {bs : List Byte} {addr len a : Nat}
    (hlen : bs.length = len) (h : readByte (writeBytes m addr bs) a ≠ readByte m a) :
    within addr len a := by
  by_contra hout
  exact h (readByte_writeBytes_of_outside (hlen ▸ hout))

/-- The output of either command is as long as its message's whole blocks (R181). -/
theorem length_cipherOf (p : Params) (i : Instr) (key msg : List Byte) :
    (cipherOf p i key msg).length = paddedLen msg.length := by
  cases i with
  | desEcbEncrypt => exact length_ecb msg fun _ _ => length_desBlockBytes _ _
  | gostEcbEncrypt => exact length_ecb msg fun _ _ => length_gostBlock _ _ _ _

/-- Of the host's operations only a memory write touches memory, and that in one byte (R194 to R196). -/
theorem hostAct_mem_cases (op : HostOp) (s : State) : (hostAct op s).mem = s.mem ∨
    ∃ addr b, op = .memWrite addr b ∧ (hostAct op s).mem = writeBytes s.mem addr.toNat [b] := by
  rcases hostAct_cases op s with ⟨f, h⟩ | ⟨f, g, h⟩ | ⟨v, h⟩ | ⟨bs, h⟩ | h | ⟨addr, b, hop, -, h⟩ |
    ⟨o, r, w, -, -, h⟩
  case inr.inr.inr.inr.inr.inl => exact .inr ⟨addr, b, hop, congrArg State.mem h⟩
  case inr.inr.inr.inr.inr.inr => exact .inl ((congrArg State.mem h).trans (writeReg_mem_faults r w s).1)
  all_goals exact .inl (by simp [h])

/-- A host's step changes a byte of memory only by writing it. -/
theorem head_of_readByte_hostStep_ne {s : State} {a : Nat}
    (h : readByte (hostStep s).mem a ≠ readByte s.mem a) :
    ∃ addr b, s.prog.head? = some (.memWrite addr b) ∧ addr.toNat = a := by
  rcases hostStep_cases s with ⟨-, heq⟩ | ⟨op, rest, p, hprog, heq⟩
  · exact absurd (by rw [heq]) h
  · replace h : readByte (hostAct op s).mem a ≠ readByte s.mem a := by rwa [heq] at h
    rcases hostAct_mem_cases op s with hmem | ⟨addr, b, rfl, hmem⟩
    · exact absurd (by rw [hmem]) h
    · rw [hmem] at h
      obtain ⟨hle, hlt⟩ := within_of_readByte_writeBytes_ne (len := 1) rfl h
      exact ⟨addr, b, by rw [hprog]; rfl, by omega⟩

/-- A reset changes a byte of memory only in the output range of a running command (R242, R243). -/
theorem within_of_readByte_resetEvent_ne {s : State} {a : Nat}
    (h : readByte (resetEvent s).mem a ≠ readByte s.mem a) :
    s.seq = .busy ∧ within (dstRange s.lat).addr (dstRange s.lat).len a := by
  rw [resetEvent, clearRegisters_mem] at h
  rcases abandonCommand_cases s with ⟨heq, -⟩ | ⟨hbusy, -, heq⟩
  · exact absurd (by rw [heq]) h
  · rw [heq] at h
    exact ⟨hbusy, within_of_readByte_writeBytes_ne (length_drawnBytes _ _) h⟩

end Sys2Proof.Proofs
end

section
/-! The statements of the family 20_memory.md. -/

namespace Sys2Proof.Proofs

open Sys2Proof Sys2Proof.Machine Sys2Proof.Claims

/-- Settles O36, by the kinds of step: only the host's write, a successful completion and a reset store
anything, each in its own range. -/
theorem memoryChangesOnlyByRule : Obligations.MemoryChangesOnlyByRule := by
  intro s t a h hne
  rcases step_cases h with ⟨hm, rfl⟩ | ⟨-, -, rfl⟩ | ⟨-, -, c, -, rfl⟩ | ⟨hm, hs, i, -, -, rfl⟩ | ⟨hm, rfl⟩
  · obtain ⟨addr, b, hhead, haddr⟩ := head_of_readByte_hostStep_ne (s := takeTurn s) hne
    exact .inl ⟨addr, b, ⟨hm, hhead⟩, haddr⟩
  · exact absurd rfl hne
  · exact absurd rfl hne
  · have hlen := length_cipherOf s.params i (readBytes s.mem (keyRange s.lat).addr (keyRange s.lat).len)
      (readBytes s.mem (srcRange s.lat).addr (srcRange s.lat).len)
    rw [length_readBytes] at hlen
    exact .inr (.inl ⟨hm, hs, rfl, within_of_readByte_writeBytes_ne hlen hne⟩)
  · obtain ⟨hs, hin⟩ := within_of_readByte_resetEvent_ne (s := takeTurn s) hne
    exact .inr (.inr ⟨hm, hs, hin⟩)

/-- Settles O46: MSB-first packing is concatenation, and undoes MSB-first serialisation. -/
theorem desBytePacking : Obligations.DesBytePacking := by
  refine ⟨ofNat_beNat_eq_append, fun k0 k1 k2 k3 k4 k5 k6 k7 => ?_, fun ks blk _ => ?_⟩
  · rw [desKeySchedule, ofNat_beNat_eq_append]
  · rw [desBlockBytes, ofNat_beNat_toBE]

/-- Settles O13, by whether the access is a legal one. -/
theorem undefinedRegisterAccess : Obligations.UndefinedRegisterAccess := by
  intro s z o w
  refine ⟨fun hbad => ?_, fun hz ho => ?_⟩
  · have hill : ¬ accessLegal z o = true := by
      rwa [accessLegal_iff, not_and_or]
    exact ⟨hostAct_regWrite_of_illegal hill w s, hostAct_regRead_of_illegal hill s⟩
  · have hleg : accessLegal z o = true := (accessLegal_iff z o).mpr ⟨hz, ho⟩
    rw [hostAct_regWrite_of_legal hleg, hostAct_regRead_of_legal hleg]
    exact ⟨writeOffset_faults o w s, rfl⟩

end Sys2Proof.Proofs
end

section
/-! The CMD word and its decoder (R80 to R84), the engine's turn (R190), the STATUS word as a poll reads it
(R25, R89), and the WMEM and RMEM lines byte by byte (R88). -/

namespace Sys2Proof.Proofs

open Sys2Proof Sys2Proof.Machine Sys2Proof.Claims

/-! ### Decoding -/

/-- The latch's two fields name a command exactly when RSVD was zero and OP is that command's (R81, R82). -/
theorem decodeFields_eq_instr_iff (op : BitVec 4) (rsvdZero : Bool) (i : Instr) :
    decodeFields op rsvdZero = .instr i ↔ rsvdZero = true ∧ op = opOf i := by
  unfold decodeFields
  split_ifs with hz h1 h2
  · cases i <;> simp [hz, h1, opOf]
  · cases i <;> simp [hz, h2, opOf]
  · cases i <;> simp [hz, h1, h2, opOf]
  · simp [hz]

/-- A word is determined by its two fields (R80). -/
theorem rsvdField_append_opField (w : Word) : rsvdField w ++ opField w = w :=
  BitVec.extractLsb'_append_extractLsb'_eq_extractLsb' (by decide) |>.trans BitVec.extractLsb'_eq_self

theorem rsvdField_encode (i : Instr) : rsvdField (encode i) = 0#28 := by cases i <;> rfl

theorem opField_encode (i : Instr) : opField (encode i) = opOf i := by cases i <;> rfl

theorem eq_encode_iff (w : Word) (i : Instr) :
    w = encode i ↔ rsvdField w = 0#28 ∧ opField w = opOf i := by
  constructor
  · rintro rfl
    exact ⟨rsvdField_encode i, opField_encode i⟩
  · rintro ⟨hrsvd, hop⟩
    rw [encode, ← rsvdField_append_opField w, hrsvd, hop]

/-- The decoder inverts the encoder, and takes no other word for a command (R83). -/
theorem decode_eq_instr_iff (w : Word) (i : Instr) : decode w = .instr i ↔ w = encode i := by
  rw [decode, decodeFields_eq_instr_iff, beq_iff_eq, eq_encode_iff]

/-! ### The engine's turn -/

theorem latchedCommand_acceptCommand (w : Word) (s : State) :
    latchedCommand (acceptCommand w s) = decode w := rfl

theorem engineStep_of_no_command {s : State} (h : ∀ i, latchedCommand s ≠ .instr i) :
    engineStep s = .next (runIllegal s) := by
  unfold engineStep
  split
  next i hi => exact absurd hi (h i)
  · rfl
  · rfl

/-- An error completion in the words of R217. -/
theorem raiseError_eq_failedWith (c : ErrCode) (s : State) :
    raiseError c s = failedWith (errNumber c) s := rfl

theorem step_of_engine_busy {s : State} (hm : nextMover s = .engine) (hs : s.seq = .busy) :
    step s = engineStep (takeTurn s) := by
  simp [step, hm, busy, hs]

theorem nextMover_of_sched_nil_busy {s : State} (h : s.sched = []) (hs : s.seq = .busy) :
    nextMover s = .engine := by
  simp [nextMover, h, busy, hs]

/-- Whatever the latch holds, the engine's step answers a completed state and leaves the interleaving and
the host's program alone (R190, R191). -/
theorem exists_engineStep_completes (s : State) : ∃ t, engineStep s = .next t ∧
    t.seq = .idle ∧ t.done = true ∧ t.sched = s.sched ∧ t.prog = s.prog := by
  rcases engineStep_cases s with ⟨c, -, h⟩ | ⟨i, -, -, h⟩
  · exact ⟨_, h, rfl, rfl, rfl, rfl⟩
  · exact ⟨_, h, rfl, rfl, rfl, rfl⟩

/-! ### Polling -/

theorem hostStep_of_poll {s : State} {r : Reg} {mask val : Word} {rest : List HostOp}
    (h : s.prog = .poll r mask val :: rest) : hostStep s =
      { s with
        hostV := readReg r s
        prog := if readReg r s &&& mask = val then rest else s.prog } := by
  rw [hostStep_of_prog_cons h]
  by_cases hv : readReg r s &&& mask = val <;> simp [hostOpDone, hostAct, hv]

theorem statusWord_getLsbD_done (s : State) : (statusWord s).getLsbD 1 = s.done := by
  simp only [statusWord, BitVec.getLsbD_append, BitVec.getLsbD_ofBool]
  simp

theorem statusWord_getLsbD_busy (s : State) : (statusWord s).getLsbD 0 = busy s := by
  simp only [statusWord, BitVec.getLsbD_append, BitVec.getLsbD_ofBool]
  simp

/-- The condition of `WAITDONE` is the DONE bit (R27, R89). -/
theorem statusWord_and_two_eq_two {s : State} (h : s.done = true) : statusWord s &&& 2 = 2 := by
  have hbit := BitVec.and_twoPow (statusWord s) 1
  rwa [statusWord_getLsbD_done, if_pos h] at hbit

/-- A host in `WAITDONE` on a completed command gets past it in one step and holds the STATUS word. -/
theorem hostStep_of_waitDone {s : State} {rest : List HostOp} (h : s.prog = waitDone ++ rest)
    (hdone : s.done = true) : hostStep s = { s with hostV := statusWord s, prog := rest } := by
  rw [hostStep_of_poll (rest := rest) h, readReg, if_pos (statusWord_and_two_eq_two hdone)]

/-! ### The WMEM and RMEM lines -/

theorem add_one_add_ofNat (a : Word) (i : Nat) :
    a + 1 + BitVec.ofNat 32 i = a + BitVec.ofNat 32 (i + 1) := by
  rw [BitVec.add_assoc, Nat.add_comm i 1, BitVec.ofNat_add]
  rfl

theorem wmem_getElem? (bytes : List Byte) : ∀ (a : Word) (i : Nat), i < bytes.length →
    (wmem a bytes)[i]? = some (.memWrite (a + BitVec.ofNat 32 i) (bytes.getD i 0)) := by
  induction bytes with
  | nil => intro a i hi; simp at hi
  | cons b bs ih =>
    intro a i hi
    cases i with
    | zero => simp [wmem]
    | succ i =>
      rw [wmem, List.getElem?_cons_succ, ih (a + 1) i (Nat.lt_of_succ_lt_succ hi), add_one_add_ofNat,
        List.getD_cons_succ]

theorem rmem_getElem? (n : Nat) : ∀ (a : Word) (i : Nat), i < n →
    (rmem a n)[i]? = some (.memRead (a + BitVec.ofNat 32 i)) := by
  induction n with
  | zero => intro a i hi; omega
  | succ n ih =>
    intro a i hi
    cases i with
    | zero => simp [rmem]
    | succ i =>
      rw [rmem, List.getElem?_cons_succ, ih (a + 1) i (Nat.lt_of_succ_lt_succ hi), add_one_add_ofNat]

end Sys2Proof.Proofs
end

section
/-! The statements of the family 30_encoding.md. -/

namespace Sys2Proof.Proofs

open Sys2Proof Sys2Proof.Machine Sys2Proof.Claims

/-- Settles O1: both sides say that RSVD is zero and OP is the command's. -/
theorem decodeMatchesTable : Obligations.DecodeMatchesTable := decode_eq_instr_iff

/-- Settles O3: the latch keeps all the decoder looks at, so the engine finds no command in it either. -/
theorem illegalWordCompletesWithError : Obligations.IllegalWordCompletesWithError := by
  intro s w hidle hdes hgost
  have hillegal : ∀ i, decode w ≠ .instr i := by
    intro i hi
    rw [decode_eq_instr_iff] at hi
    cases i with
    | desEcbEncrypt => exact hdes hi
    | gostEcbEncrypt => exact hgost hi
  rw [hostAct_write_cmd_of_idle w hidle]
  refine ⟨hillegal, rfl, failedWith 1 (acceptCommand w s), ?_, rfl, rfl⟩
  rw [engineStep_of_no_command (latchedCommand_acceptCommand w s ▸ hillegal)]
  exact congrArg _ (raiseError_eq_failedWith .illegalCmd _)

/-- Settles O42: the engine moves first and completes, and the host's next look at STATUS shows it. -/
theorem waitDoneTerminates : Obligations.WaitDoneTerminates := by
  intro s rest hbusy hsched hprog
  obtain ⟨t, hengine, hidle, hdone, htsched, htprog⟩ := exists_engineStep_completes s
  have hst : step s = .next t := by
    rw [step_of_engine_busy (nextMover_of_sched_nil_busy hsched hbusy) hbusy,
      takeTurn_of_sched_nil hsched, hengine]
  have htu : step t = .next { t with hostV := statusWord t, prog := rest } := by
    have htnil : t.sched = [] := htsched.trans hsched
    rw [step_of_host (nextMover_of_sched_nil_idle htnil hidle), takeTurn_of_sched_nil htnil,
      hostStep_of_waitDone (htprog.trans hprog) hdone]
  exact ⟨t, _, hst, htu, rfl, hidle, (statusWord_getLsbD_done t).trans hdone,
    (statusWord_getLsbD_busy t).trans ((busy_eq_false t).mpr hidle)⟩

/-- Settles O2: each word is closed, so the decoder and the encoder compute the answers. -/
theorem sampleWordsDecode : Obligations.SampleWordsDecode := by
  unfold Obligations.SampleWordsDecode
  decide

/-- Settles O15, by whether the masked value matches. -/
theorem pollRepeatsUntilMatch : Obligations.PollRepeatsUntilMatch :=
  fun _ _ _ _ _ hprog => hostStep_of_poll hprog

/-- Settles O16: the lines of fixed length unfold to their transactions, and those of n bytes are read off
byte by byte. -/
theorem pseudoInstructionsExpand : Obligations.PseudoInstructionsExpand :=
  ⟨rfl, rfl, rfl, rfl, fun _ _ _ _ _ => rfl, fun _ _ => ⟨rfl, rfl⟩, rfl,
    fun a bytes => ⟨length_wmem bytes a, wmem_getElem? bytes a⟩,
    fun a n => ⟨length_rmem n a, rmem_getElem? n a⟩⟩

end Sys2Proof.Proofs
end

section
/-! Rotations within a width, the subkeys as a function of the halves (R103 to R106), and the bits of a
packed key that PC-1 reads (R63, R101). -/

namespace Sys2Proof.Proofs

open Sys2Proof Sys2Proof.Machine Sys2Proof.Claims

/-! ### Rotations -/

theorem rotateLeft_zero {w : Nat} (x : BitVec w) : x.rotateLeft 0 = x := by
  refine BitVec.eq_of_getMsbD_eq fun i hi => ?_
  simp [BitVec.getMsbD_rotateLeft, hi, Nat.mod_eq_of_lt]

theorem rotateLeft_width {w : Nat} (x : BitVec w) : x.rotateLeft w = x := by
  rw [← BitVec.rotateLeft_mod_eq_rotateLeft, Nat.mod_self, rotateLeft_zero]

/-- Rotations within one width add up (R104). -/
theorem rotateLeft_rotateLeft {w : Nat} (x : BitVec w) (m n : Nat) :
    (x.rotateLeft m).rotateLeft n = x.rotateLeft (m + n) := by
  refine BitVec.eq_of_getMsbD_eq fun i hi => ?_
  have hlt : (n + i) % w < w := Nat.mod_lt _ (Nat.zero_lt_of_lt hi)
  simp [BitVec.getMsbD_rotateLeft, hi, hlt, Nat.add_assoc]

/-- No rotation moves a half of all zeros or all ones (R109). -/
theorem rotateLeft_of_uniform {w : Nat} {x : BitVec w} (h : x = 0 ∨ x = BitVec.allOnes w) (n : Nat) :
    x.rotateLeft n = x := by
  refine BitVec.eq_of_getMsbD_eq fun i hi => ?_
  have hlt : (n + i) % w < w := Nat.mod_lt _ (Nat.zero_lt_of_lt hi)
  rcases h with rfl | rfl <;> simp [BitVec.getMsbD_rotateLeft, hi, hlt]

/-! ### The subkeys -/

@[simp] theorem length_desSubkeys (ns : List Nat) : ∀ c d, (desSubkeys ns c d).length = ns.length := by
  induction ns with
  | nil => exact fun _ _ => rfl
  | cons n ns ih => exact fun c d => congrArg Nat.succ (ih _ _)

/-- The subkey of a round selects from the halves rotated by all the amounts up to that round. -/
theorem desSubkeys_getD (ns : List Nat) : ∀ (c d : BitVec 28) (r : Nat), r < ns.length →
    (desSubkeys ns c d).getD r 0 = permute 48 desPC2
      (c.rotateLeft (ns.take (r + 1)).sum ++ d.rotateLeft (ns.take (r + 1)).sum) := by
  induction ns with
  | nil => intro c d r hr; simp at hr
  | cons n ns ih =>
    intro c d r hr
    cases r with
    | zero => simp [desSubkeys]
    | succ r =>
      rw [desSubkeys, List.getD_cons_succ, ih _ _ r (Nat.lt_of_succ_lt_succ hr), rotateLeft_rotateLeft,
        rotateLeft_rotateLeft, List.take_succ_cons, List.sum_cons]

/-- Halves that no rotation moves give the same selection in every round. -/
theorem desSubkeys_of_uniform {c d : BitVec 28} (hc : c = 0 ∨ c = BitVec.allOnes 28)
    (hd : d = 0 ∨ d = BitVec.allOnes 28) (ns : List Nat) :
    desSubkeys ns c d = List.replicate ns.length (permute 48 desPC2 (c ++ d)) := by
  induction ns with
  | nil => rfl
  | cons n ns ih =>
    rw [desSubkeys, rotateLeft_of_uniform hc, rotateLeft_of_uniform hd, ih, List.length_cons,
      List.replicate_succ]

theorem desSchedule_of_uniform {k : BitVec 64}
    (hc : (desHalves k).1 = 0 ∨ (desHalves k).1 = BitVec.allOnes 28)
    (hd : (desHalves k).2 = 0 ∨ (desHalves k).2 = BitVec.allOnes 28) :
    desSchedule k =
      List.replicate 16 (permute 48 desPC2 ((desHalves k).1 ++ (desHalves k).2)) :=
  desSubkeys_of_uniform hc hd desShifts

/-! ### The bits of a packed key -/

/-- Bit k of bytes packed least significant first lies in byte k / 8 (R16). -/
theorem leNat_testBit (bs : List Byte) : ∀ k,
    (leNat bs).testBit k = (bs.getD (k / 8) 0).getLsbD (k % 8) := by
  induction bs with
  | nil => simp [leNat]
  | cons b bs ih =>
    intro k
    have hcons : leNat (b :: bs) = 2 ^ 8 * leNat bs + b.toNat := Nat.add_comm _ _
    rw [hcons, Nat.testBit_two_pow_mul_add _ b.isLt]
    split_ifs with hk
    · rw [Nat.div_eq_of_lt hk, Nat.mod_eq_of_lt hk, List.getD_cons_zero, BitVec.testBit_toNat]
    · rw [ih, show k / 8 = (k - 8) / 8 + 1 by omega, show k % 8 = (k - 8) % 8 by omega,
        List.getD_cons_succ]

/-- Bit i of a packed key, counted from the most significant, is that bit of the key's bytes in order
(R63). -/
theorem getMsbD_ofNat_beNat {key : List Byte} (hkey : key.length = 8) {i : Nat} (hi : i < 64) :
    (BitVec.ofNat 64 (beNat key)).getMsbD i = (key.getD (i / 8) 0).getMsbD (i % 8) := by
  have hbyte : key.length - 1 - (63 - i) / 8 = i / 8 := by omega
  have hbit : (63 - i) % 8 = 7 - i % 8 := by omega
  rw [BitVec.getMsbD_eq_getLsbD, BitVec.getMsbD_eq_getLsbD, BitVec.getLsbD_ofNat, beNat_eq_leNat_reverse,
    leNat_testBit, List.getD_reverse _ (by omega), hbyte, hbit]
  simp [hi, show 63 - i < 64 by omega, show i % 8 < 8 by omega]

/-- PC-1 never reads the lowest bit of a key byte (R101). -/
theorem desPC1_drops_parity : ∀ i ∈ desPC1, i - 1 < 64 ∧ (i - 1) % 8 < 7 := by decide

/-- Bytes that agree in their upper seven bits agree in each of them. -/
theorem getMsbD_eq_of_ushiftRight_eq {a b : Byte} (h : a >>> 1 = b >>> 1) {j : Nat} (hj : j < 7) :
    a.getMsbD j = b.getMsbD j := by
  have hbit := congrArg (fun v : Byte => v.getMsbD (j + 1)) h
  simpa [BitVec.getMsbD_ushiftRight, show j + 1 < 8 by omega] using hbit

/-- PC-1 gives the same halves for keys that differ only in parity bits (R101, R102, R108). -/
theorem desHalves_eq_of_ushiftRight_eq {key key' : List Byte} (hkey : key.length = 8)
    (hkey' : key'.length = 8) (h : ∀ j, (key.getD j 0) >>> 1 = (key'.getD j 0) >>> 1) :
    desHalves (BitVec.ofNat 64 (beNat key)) = desHalves (BitVec.ofNat 64 (beNat key')) := by
  have hpk : permute 56 desPC1 (BitVec.ofNat 64 (beNat key)) =
      permute 56 desPC1 (BitVec.ofNat 64 (beNat key')) := by
    refine permute_congr rfl fun i hi => ?_
    obtain ⟨hlt, hparity⟩ := desPC1_drops_parity i hi
    rw [getMsbD_ofNat_beNat hkey hlt, getMsbD_ofNat_beNat hkey' hlt]
    exact getMsbD_eq_of_ushiftRight_eq (h _) hparity
  rw [desHalves, desHalves, hpk]

end Sys2Proof.Proofs
end

section
/-! The statements of the family 40_des_key_schedule.md. -/

namespace Sys2Proof.Proofs

open Sys2Proof Sys2Proof.Machine Sys2Proof.Claims

/-- Settles O48: the rotations of the rounds add up, and the sixteen amounts to the width of a half. -/
theorem subkeyRotations : Obligations.SubkeyRotations := by
  intro k
  have hturn : desShifts.sum = 28 := rfl
  rw [hturn]
  exact ⟨length_desSubkeys desShifts _ _, desSubkeys_getD desShifts _ _,
    rotateLeft_width _, rotateLeft_width _⟩

/-- Settles O49: the key enters the schedule, and the cipher, only through the halves of PC-1. -/
theorem parityBitsIgnored : Obligations.ParityBitsIgnored := by
  intro key key' hkey hkey' h
  have hsched : desKeySchedule key = desKeySchedule key' := by
    simp only [desKeySchedule, desSchedule, desHalves_eq_of_ushiftRight_eq hkey hkey' h]
  exact ⟨hsched, fun msg => by rw [desEcb, desEcb, hsched]⟩

/-- Settles O50: no rotation moves such halves, so PC-2 selects the same bits in every round. -/
theorem weakKeysRepeatSubkeys : Obligations.WeakKeysRepeatSubkeys := by
  refine ⟨fun k hc hd => ?_, ?_⟩
  · rw [desSchedule_of_uniform hc hd]
    rfl
  · have hhalves : desHalves 0x0101010101010101#64 = (0, 0) := by decide
    have hzero : permute 48 desPC2 ((0 : BitVec 28) ++ (0 : BitVec 28)) = 0#48 := by decide
    rw [desSchedule_of_uniform (by simp [hhalves]) (by simp [hhalves]), hhalves, hzero]

end Sys2Proof.Proofs
end

section
/-! Bit selections that undo one another (R14, R121), complements, and the S-boxes' output nibbles (R125 to
R127). -/

namespace Sys2Proof.Proofs

open Sys2Proof Sys2Proof.Machine Sys2Proof.Claims

/-! ### Permutations -/

/-- A selection is undone by a table that names, for each position of the input, where it went. -/
theorem permute_permute_of_inverse {n m : Nat} {table inverse : List Nat} (v : BitVec n)
    (hm : m = table.length) (hn : n = inverse.length)
    (h : ∀ j < n, inverse.getD j 0 - 1 < m ∧ table.getD (inverse.getD j 0 - 1) 0 - 1 = j) :
    permute n inverse (permute m table v) = v := by
  refine BitVec.eq_of_getMsbD_eq fun j hj => ?_
  obtain ⟨hlt, hback⟩ := h j hj
  rw [getMsbD_permute n inverse _ hn hj, getMsbD_permute m table v hm hlt, hback]

/-- FP undoes IP (R121). -/
theorem permute_desFP_desIP (v : BitVec 64) : permute 64 desFP (permute 64 desIP v) = v :=
  permute_permute_of_inverse v rfl rfl (by decide)

/-- IP undoes FP. -/
theorem permute_desIP_desFP (v : BitVec 64) : permute 64 desIP (permute 64 desFP v) = v :=
  permute_permute_of_inverse v rfl rfl (by decide)

/-! ### Complements -/

theorem extractLsb'_not {w start len : Nat} (x : BitVec w) (h : start + len ≤ w) :
    (~~~x).extractLsb' start len = ~~~(x.extractLsb' start len) := by
  refine BitVec.eq_of_getLsbD_eq fun i hi => ?_
  simp [hi, show start + i < w by omega]

theorem rotateLeft_not {w : Nat} (x : BitVec w) (n : Nat) : (~~~x).rotateLeft n = ~~~(x.rotateLeft n) := by
  refine BitVec.eq_of_getMsbD_eq fun i hi => ?_
  simp [BitVec.getMsbD_rotateLeft, hi, Nat.mod_lt _ (Nat.zero_lt_of_lt hi)]

/-! ### The S-boxes' output -/

/-- Shifting in a nibble moves each nibble that stays one place up. -/
theorem extractLsb'_shiftIn_succ (so : BitVec 32) (b : BitVec 4) {m : Nat} (hm : m < 7) :
    (so <<< 4 ||| b.setWidth 32).extractLsb' (4 * (m + 1)) 4 = so.extractLsb' (4 * m) 4 := by
  refine BitVec.eq_of_getLsbD_eq fun i hi => ?_
  have hhigh : b.getLsbD (4 * (m + 1) + i) = false := BitVec.getLsbD_of_ge _ _ (by omega)
  have hplace : 4 * (m + 1) + i - 4 = 4 * m + i := by omega
  have hstays : ¬ 4 * (m + 1) + i < 4 := by omega
  simp [hi, hhigh, hplace, hstays, show 4 * (m + 1) + i < 32 by omega, -BitVec.getLsbD_eq_getElem]

/-- The nibble shifted in is the lowest. -/
theorem extractLsb'_shiftIn_zero (so : BitVec 32) (b : BitVec 4) :
    (so <<< 4 ||| b.setWidth 32).extractLsb' 0 4 = b := by
  refine BitVec.eq_of_getLsbD_eq fun i hi => ?_
  simp [hi, show i < 32 by omega]

/-- Nibbles concatenated in order: of n, nibble g stands n - 1 - g places from the lowest. -/
theorem extractLsb'_foldl_shiftIn (f : Nat → BitVec 4) {g n : Nat} (hn : n ≤ 8) (hg : g < n) :
    ((List.range n).foldl (fun (so : BitVec 32) i => so <<< 4 ||| (f i).setWidth 32) 0#32).extractLsb'
      (4 * (n - 1 - g)) 4 = f g := by
  induction n with
  | zero => exact absurd hg (Nat.not_lt_zero g)
  | succ n ih =>
    rw [List.range_succ, List.foldl_append, List.foldl_cons, List.foldl_nil]
    rcases Nat.lt_succ_iff_lt_or_eq.mp hg with hlt | rfl
    · rw [show n + 1 - 1 - g = (n - 1 - g) + 1 by omega, extractLsb'_shiftIn_succ _ _ (by omega),
        ih (by omega) hlt]
    · rw [show 4 * (g + 1 - 1 - g) = 0 by omega, extractLsb'_shiftIn_zero]

/-- Group g's lookup stands in bits 31 - 4g to 28 - 4g of the substituted value (R127). -/
theorem extractLsb'_desSubstitute (x : BitVec 48) {g : Nat} (hg : g < 8) :
    (desSubstitute x).extractLsb' (28 - 4 * g) 4 =
      desLookup (desSboxes.getD g []) (desGroup x g) := by
  rw [show 28 - 4 * g = 4 * (8 - 1 - g) by omega, desSubstitute]
  exact extractLsb'_foldl_shiftIn (fun i => desLookup (desSboxes.getD i []) (desGroup x i)) le_rfl hg

theorem getLsbD_desGroup (x : BitVec 48) (g : Nat) {i : Nat} (hi : i < 6) :
    (desGroup x g).getLsbD i = x.getLsbD (42 - 6 * g + i) := by
  simp [desGroup, hi]

/-- The inner four bits of group g (R125). -/
theorem extractLsb'_desGroup (x : BitVec 48) (g : Nat) :
    (desGroup x g).extractLsb' 1 4 = x.extractLsb' (42 - 6 * g + 1) 4 := by
  refine BitVec.eq_of_getLsbD_eq fun i hi => ?_
  simp [desGroup, hi, show 1 + i < 6 by omega, Nat.add_assoc]

end Sys2Proof.Proofs
end

section
/-! The rounds of DES: as a sequence of halves (R130), under complement, and run backwards (R133). -/

namespace Sys2Proof.Proofs

open Sys2Proof Sys2Proof.Machine Sys2Proof.Claims

/-! ### The sequence of halves -/

/-- The halves of block v after the first i rounds (R130). -/
def desHalvesAfter (v : BitVec 64) (ks : List (BitVec 48)) (i : Nat) : BitVec 32 × BitVec 32 :=
  (ks.take i).foldl desRound (desSplit v)

theorem desSplit_append (v : BitVec 64) : (desSplit v).1 ++ (desSplit v).2 = permute 64 desIP v :=
  BitVec.extractLsb'_append_extractLsb' (w := 32) (len := 32)

theorem desHalvesAfter_succ (v : BitVec 64) {ks : List (BitVec 48)} {i : Nat} (hi : i < ks.length) :
    desHalvesAfter v ks (i + 1) = desRound (desHalvesAfter v ks i) (ks.getD i 0) := by
  rw [desHalvesAfter, List.take_succ_eq_append_getElem hi, List.foldl_append, List.getD_eq_getElem _ _ hi]
  rfl

/-- The block transform ends with FP of the right half and then the left (R131). -/
theorem desBlock_eq_desHalvesAfter (v : BitVec 64) (ks : List (BitVec 48)) :
    desBlock v ks = permute 64 desFP
      ((desHalvesAfter v ks ks.length).2 ++ (desHalvesAfter v ks ks.length).1) := by
  rw [desHalvesAfter, List.take_length]
  rfl

/-! ### Complements -/

/-- Both halves complemented. -/
def complementHalves (lr : BitVec 32 × BitVec 32) : BitVec 32 × BitVec 32 := (~~~lr.1, ~~~lr.2)

/-- The round function does not see the complement of both its arguments: the key mixing cancels it. -/
theorem desF_not (r : BitVec 32) (k : BitVec 48) : desF (~~~r) (~~~k) = desF r k := by
  rw [desF, permute_not 48 r rfl (by decide), ← BitVec.not_xor_left, ← BitVec.not_xor_right, BitVec.not_not]
  rfl

theorem desRound_complement (lr : BitVec 32 × BitVec 32) (k : BitVec 48) :
    desRound (complementHalves lr) (~~~k) = complementHalves (desRound lr k) := by
  simp only [desRound, complementHalves, desF_not, BitVec.not_xor_left]

theorem desSplit_not (v : BitVec 64) : desSplit (~~~v) = complementHalves (desSplit v) := by
  simp only [desSplit, complementHalves, permute_not 64 v (table := desIP) rfl (by decide),
    extractLsb'_not _ (show 32 + 32 ≤ 64 by decide), extractLsb'_not _ (show 0 + 32 ≤ 64 by decide)]

/-- Complementing the block and every subkey complements the ciphertext (R133). -/
theorem desBlock_not_map_not (v : BitVec 64) (ks : List (BitVec 48)) :
    desBlock (~~~v) (ks.map (~~~·)) = ~~~(desBlock v ks) := by
  have hrounds : (ks.map (~~~·)).foldl desRound (desSplit (~~~v)) =
      complementHalves (ks.foldl desRound (desSplit v)) := by
    rw [List.foldl_map, desSplit_not]
    exact List.foldl_hom complementHalves desRound_complement
  simp only [desBlock, hrounds, complementHalves]
  rw [← BitVec.not_append, permute_not 64 _ rfl (by decide)]

theorem desSubkeys_not (ns : List Nat) : ∀ c d : BitVec 28,
    desSubkeys ns (~~~c) (~~~d) = (desSubkeys ns c d).map (~~~·) := by
  induction ns with
  | nil => exact fun _ _ => rfl
  | cons n ns ih =>
    intro c d
    rw [desSubkeys, desSubkeys, rotateLeft_not, rotateLeft_not, ih, ← BitVec.not_append,
      permute_not 48 _ rfl (by decide), List.map_cons]

/-- The complement of the key gives the complement of each subkey (R101 to R105). -/
theorem desSchedule_not (k : BitVec 64) : desSchedule (~~~k) = (desSchedule k).map (~~~·) := by
  have hhalves : desHalves (~~~k) = (~~~(desHalves k).1, ~~~(desHalves k).2) := by
    simp only [desHalves, permute_not 56 k (table := desPC1) rfl (by decide),
      extractLsb'_not _ (show 28 + 28 ≤ 56 by decide), extractLsb'_not _ (show 0 + 28 ≤ 56 by decide)]
  rw [desSchedule, hhalves, desSubkeys_not]
  rfl

/-! ### The rounds backwards -/

/-- A round on the swapped halves undoes the round with the same subkey. -/
theorem desRound_swap_desRound (lr : BitVec 32 × BitVec 32) (k : BitVec 48) :
    desRound (desRound lr k).swap k = lr.swap := by
  simp [desRound, Prod.swap]

/-- On the swapped halves, the rounds in reverse order undo the rounds. -/
theorem foldl_desRound_reverse (ks : List (BitVec 48)) : ∀ lr : BitVec 32 × BitVec 32,
    ks.reverse.foldl desRound (ks.foldl desRound lr).swap = lr.swap := by
  induction ks with
  | nil => exact fun _ => rfl
  | cons k ks ih =>
    intro lr
    rw [List.foldl_cons, List.reverse_cons, List.foldl_append, ih, List.foldl_cons, List.foldl_nil,
      desRound_swap_desRound]

theorem desSplit_permute_desFP (l r : BitVec 32) : desSplit (permute 64 desFP (l ++ r)) = (l, r) := by
  rw [desSplit, permute_desIP_desFP]
  exact Prod.ext BitVec.extractLsb'_append_eq_left BitVec.extractLsb'_append_eq_right

/-- Under the subkeys in reverse order the block transform undoes itself. -/
theorem desBlock_reverse (v : BitVec 64) (ks : List (BitVec 48)) :
    desBlock (desBlock v ks) ks.reverse = v := by
  have hsplit : desSplit (desBlock v ks) = (ks.foldl desRound (desSplit v)).swap :=
    desSplit_permute_desFP _ _
  have hrounds : ks.reverse.foldl desRound (desSplit (desBlock v ks)) = (desSplit v).swap := by
    rw [hsplit, foldl_desRound_reverse]
  calc desBlock (desBlock v ks) ks.reverse
      = permute 64 desFP ((desSplit v).1 ++ (desSplit v).2) := by rw [desBlock, hrounds]; rfl
    _ = v := by rw [desSplit_append, permute_desFP_desIP]

end Sys2Proof.Proofs
end

section
/-! The statements of the family 41_des_block.md. -/

namespace Sys2Proof.Proofs

open Sys2Proof Sys2Proof.Machine Sys2Proof.Claims

/-- Settles O47: each entry of FP names the position to which IP moved that bit. -/
theorem finalPermutationInverts : Obligations.FinalPermutationInverts := permute_desFP_desIP

/-- Settles O51: the concatenation puts group g's lookup in its place, and the lookup reads the group's
six bits of x. -/
theorem sboxOutputPlacement : Obligations.SboxOutputPlacement := by
  intro x g hg
  rw [extractLsb'_desSubstitute x hg, desLookup, getLsbD_desGroup x g (by decide),
    getLsbD_desGroup x g (by decide), extractLsb'_desGroup,
    show 42 - 6 * g + 5 = 47 - 6 * g by omega, show 42 - 6 * g + 1 = 43 - 6 * g by omega]
  rfl

/-- Settles O60, with the mixed half E(r) xor k for x. -/
theorem desRoundFunctionBits : Obligations.DesRoundFunctionBits := by
  intro r k
  refine ⟨permute 48 desE r ^^^ k, fun j hj => ?_, fun j hj => ?_⟩
  · rw [BitVec.getMsbD_xor, getMsbD_permute 48 desE r rfl hj]
  · rw [desF, getMsbD_permute 32 desP _ rfl hj]

/-- Settles O52, with the halves after each number of rounds for L and R. -/
theorem desRoundsAsStated : Obligations.DesRoundsAsStated := by
  intro v ks hks
  refine ⟨fun i => (desHalvesAfter v ks i).1, fun i => (desHalvesAfter v ks i).2,
    desSplit_append v, fun i hi => ?_, ?_⟩
  · have hround := desHalvesAfter_succ v (hks ▸ hi)
    exact ⟨congrArg Prod.fst hround, congrArg Prod.snd hround⟩
  · rw [desBlock_eq_desHalvesAfter, hks]

/-- Settles O53: the complement passes through the schedule to every subkey, and through every round. -/
theorem desComplementation : Obligations.DesComplementation := by
  intro v k
  rw [desSchedule_not, desBlock_not_map_not]

/-- Settles O54: equal subkeys are their own reverse, and the reversed subkeys decrypt. -/
theorem equalSubkeysInvolution : Obligations.EqualSubkeysInvolution := by
  intro v k
  have hreverse := desBlock_reverse v (List.replicate 16 k)
  rwa [List.reverse_replicate] at hreverse

end Sys2Proof.Proofs
end

section
/-! GOST words and the bytes they are packed from (R65, R151, R157), the nibbles of the round function (R153
to R156), and the elementary updates one by one (R158 to R160). -/

namespace Sys2Proof.Proofs

open Sys2Proof Sys2Proof.Machine Sys2Proof.Claims

/-! ### Words and their bytes -/

/-- Four bytes packed least significant first are their concatenation from the last to the first. -/
theorem gostWord_little_eq_append (b0 b1 b2 b3 : Byte) :
    gostWord .little [b0, b1, b2, b3] = b3 ++ b2 ++ b1 ++ b0 := by
  refine BitVec.eq_of_toNat_eq ?_
  have hpack : leNat [b0, b1, b2, b3] = (b3 ++ b2 ++ b1 ++ b0).toNat := by
    simp only [toNat_append_byte]
    simp only [leNat, List.foldr_cons, List.foldr_nil]
    omega
  rw [gostWord, hpack, BitVec.ofNat_toNat, BitVec.setWidth_eq]

/-- Packing the bytes of a GOST word gives the word back, in either byte order (R65). -/
theorem gostWord_gostBytes (e : Endian) (w : BitVec 32) : gostWord e (gostBytes e w) = w := by
  have hlt : w.toNat < 256 ^ 4 := w.isLt
  cases e with
  | little =>
    rw [gostWord, gostBytes, leNat_toLE, Nat.mod_eq_of_lt hlt, BitVec.ofNat_toNat, BitVec.setWidth_eq]
  | big =>
    rw [gostWord, gostBytes, beNat_toBE, Nat.mod_eq_of_lt hlt, BitVec.ofNat_toNat, BitVec.setWidth_eq]

/-- The little-endian bytes of a word, and the word as their concatenation. -/
theorem exists_gostBytes_little (w : BitVec 32) : ∃ c0 c1 c2 c3 : Byte,
    gostBytes .little w = [c0, c1, c2, c3] ∧ w = c3 ++ c2 ++ c1 ++ c0 :=
  ⟨_, _, _, _, rfl, (gostWord_gostBytes .little w).symm.trans (gostWord_little_eq_append ..)⟩

theorem take_succ_drop_eq_getD_cons {bytes : List Byte} {i : Nat} (h : i < bytes.length) (n : Nat) :
    (bytes.drop i).take (n + 1) = bytes.getD i 0 :: (bytes.drop (i + 1)).take n := by
  rw [List.drop_eq_getElem_cons h, List.take_succ_cons, List.getD_eq_getElem _ _ h]

theorem take_four_drop_eq_getD {bytes : List Byte} {i : Nat} (h : i + 4 ≤ bytes.length) :
    (bytes.drop i).take 4 =
      [bytes.getD i 0, bytes.getD (i + 1) 0, bytes.getD (i + 2) 0, bytes.getD (i + 3) 0] := by
  rw [take_succ_drop_eq_getD_cons (by omega), take_succ_drop_eq_getD_cons (by omega),
    take_succ_drop_eq_getD_cons (by omega), take_succ_drop_eq_getD_cons (by omega), List.take_zero]

theorem gostSubkeys_getD (e : Endian) (key : List Byte) {j : Nat} (hj : j < 8) :
    (gostSubkeys e key).getD j 0 = gostWord e ((key.drop (4 * j)).take 4) := by
  simp [gostSubkeys, hj]

/-! ### The round function -/

/-- A nibble shifted to place n shows there and nowhere else. -/
theorem extractLsb'_nibble_shiftLeft (b : BitVec 4) (m n : Fin 8) :
    (b.setWidth 32 <<< (4 * n.val)).extractLsb' (4 * m.val) 4 = if m = n then b else 0 := by
  refine BitVec.eq_of_getLsbD_eq fun i hi => ?_
  have hin : 4 * m.val + i < 32 := by omega
  rw [BitVec.getLsbD_extractLsb', BitVec.getLsbD_shiftLeft, BitVec.getLsbD_setWidth]
  rcases lt_trichotomy m n with hlt | rfl | hgt
  · have hbelow : 4 * m.val + i < 4 * n.val := by omega
    simp [hbelow, hlt.ne]
  · simp [hi, hin, show i < 32 by omega]
  · have habove : b.getLsbD (4 * m.val + i - 4 * n.val) = false := BitVec.getLsbD_of_ge _ _ (by omega)
    simp [habove, hgt.ne']

/-- Nibbles gathered by OR, each in its own place. -/
theorem extractLsb'_foldl_or_nibble (f : Fin 8 → BitVec 4) (m : Fin 8) (l : List (Fin 8)) :
    ∀ y : BitVec 32, (l.foldl (fun y n => y ||| (f n).setWidth 32 <<< (4 * n.val)) y).extractLsb'
      (4 * m.val) 4 = y.extractLsb' (4 * m.val) 4 ||| if m ∈ l then f m else 0 := by
  induction l with
  | nil => simp
  | cons n l ih =>
    intro y
    rw [List.foldl_cons, ih, BitVec.extractLsb'_or, extractLsb'_nibble_shiftLeft]
    by_cases hmn : m = n
    · subst hmn
      by_cases hml : m ∈ l <;> simp [hml, BitVec.or_assoc]
    · simp [hmn]

/-- Nibble n of the round function's value (R154, R155). -/
theorem extractLsb'_gostF (t : GostSbox) (x k : BitVec 32) (n : Fin 8) :
    (gostF t x k).extractLsb' (4 * n.val) 4 =
      gostLookup t n ((x + k).extractLsb' (4 * n.val) 4) := by
  rw [gostF, extractLsb'_foldl_or_nibble (fun n => gostLookup t n ((x + k).extractLsb' (4 * n.val) 4))]
  simp

@[simp] theorem gostLookup_zeroBox (n : Fin 8) (x : BitVec 4) : gostLookup zeroBox n x = 0 := by
  simp [gostLookup, zeroBox, Vector.get_eq_getElem]

@[simp] theorem gostLookup_identityBox (n : Fin 8) (x : BitVec 4) : gostLookup identityBox n x = x := by
  simp [gostLookup, identityBox, Vector.get_eq_getElem]

theorem gostF_zeroBox (x k : BitVec 32) : gostF zeroBox x k = 0 :=
  eq_of_nibbles fun n => by simp [extractLsb'_gostF]

theorem gostF_identityBox (x k : BitVec 32) : gostF identityBox x k = x + k :=
  eq_of_nibbles fun n => by simp [extractLsb'_gostF]

/-! ### The block transform -/

/-- The output is the new b's bytes and then the new a's (R161). -/
theorem gostBlock_of_gostUpdates {e : Endian} {t : GostSbox} {ks : List (BitVec 32)} {blk : List Byte}
    {a b : BitVec 32}
    (h : gostUpdates t ks (gostWord e (blk.take 4), gostWord e ((blk.drop 4).take 4)) = (a, b)) :
    gostBlock e t ks blk = gostBytes e b ++ gostBytes e a := by
  simp only [gostBlock, h]

/-- Under the all-zero S-box no update changes a half (R164). -/
theorem gostUpdates_zeroBox (ks : List (BitVec 32)) (ab : BitVec 32 × BitVec 32) :
    gostUpdates zeroBox ks ab = ab :=
  List.foldl_fixed' (fun ij => by simp [gostPair, gostF_zeroBox]) _

/-- An elementary update: subkey index j, on a where the count u from 0 is even and on b where it is odd
(R160). -/
def gostUpdate (t : GostSbox) (ks : List (BitVec 32)) (ab : BitVec 32 × BitVec 32) (ju : Nat × Nat) :
    BitVec 32 × BitVec 32 :=
  if ju.2 % 2 = 0 then (ab.1 ^^^ gostF t ab.2 (ks.getD ju.1 0), ab.2)
  else (ab.1, ab.2 ^^^ gostF t ab.1 (ks.getD ju.1 0))

/-- A pair iteration is two elementary updates, the second from the a the first left (R158). -/
theorem gostPair_eq_gostUpdate (t : GostSbox) (ks : List (BitVec 32)) (ab : BitVec 32 × BitVec 32)
    (ij : Nat × Nat) {u : Nat} (hu : u % 2 = 0) :
    gostPair t ks ab ij = gostUpdate t ks (gostUpdate t ks ab (ij.1, u)) (ij.2, u + 1) := by
  have hodd : (u + 1) % 2 ≠ 0 := by omega
  simp only [gostUpdate, if_pos hu, if_neg hodd, gostPair]

/-- The indices of a pair list in the order in which they are used. -/
def flattenPairs (pairs : List (Nat × Nat)) : List Nat := pairs.flatMap fun ij => [ij.1, ij.2]

/-- Pair iterations are the elementary updates of their indices in order, counted on from an even number. -/
theorem foldl_gostPair_eq_foldl_gostUpdate (t : GostSbox) (ks : List (BitVec 32))
    (pairs : List (Nat × Nat)) : ∀ (u : Nat) (ab : BitVec 32 × BitVec 32), u % 2 = 0 →
    pairs.foldl (gostPair t ks) ab =
      ((flattenPairs pairs).zipIdx u).foldl (gostUpdate t ks) ab := by
  induction pairs with
  | nil => exact fun _ _ _ => rfl
  | cons ij pairs ih =>
    intro u ab hu
    rw [List.foldl_cons, gostPair_eq_gostUpdate t ks ab ij hu, ih (u + 2) _ (by omega)]
    rfl

end Sys2Proof.Proofs
end

section
/-! The statements of the family 42_gost.md. -/

namespace Sys2Proof.Proofs

open Sys2Proof Sys2Proof.Machine Sys2Proof.Claims

/-- Settles O55: the slice of a subkey is four bytes of the key, and packing them concatenates them. -/
theorem gostSubkeySlices : Obligations.GostSubkeySlices := by
  intro key j hkey hj
  refine ⟨by simp [gostSubkeys], ?_⟩
  rw [gostSubkeys_getD .little key hj, take_four_drop_eq_getD (by omega), gostWord_little_eq_append]

/-- Settles O56: each lookup is put in the place of the nibble it reads. -/
theorem gostNibbleSubstitution : Obligations.GostNibbleSubstitution := by
  intro t x k n
  rw [extractLsb'_gostF, BitVec.ofNat_add, BitVec.ofNat_toNat, BitVec.ofNat_toNat, BitVec.setWidth_eq,
    BitVec.setWidth_eq]

/-- Settles O58, with the bytes of the new b and then of the new a for the output. -/
theorem gostHalvesAndSwap : Obligations.GostHalvesAndSwap := by
  intro t ks b0 b1 b2 b3 b4 b5 b6 b7
  rw [← gostWord_little_eq_append b0 b1 b2 b3, ← gostWord_little_eq_append b4 b5 b6 b7]
  obtain ⟨⟨a, b⟩, hab⟩ : ∃ ab, gostUpdates t ks
      (gostWord .little [b0, b1, b2, b3], gostWord .little [b4, b5, b6, b7]) = ab := ⟨_, rfl⟩
  obtain ⟨c0, c1, c2, c3, hb, rfl⟩ := exists_gostBytes_little b
  obtain ⟨c4, c5, c6, c7, ha, rfl⟩ := exists_gostBytes_little a
  refine ⟨c0, c1, c2, c3, c4, c5, c6, c7, ?_, hab⟩
  rw [gostBlock_of_gostUpdates (blk := [b0, b1, b2, b3, b4, b5, b6, b7]) hab, hb, ha]
  rfl

/-- Settles O59: the nibbles decide the round function under both boxes, and the key's digits repeat every
ten bytes, so the slices of subkeys j and j + 5, twenty bytes apart, are alike. -/
theorem gostCornerCases : Obligations.GostCornerCases := by
  refine ⟨by decide, gostF_zeroBox, fun e ks blk hblk => ?_, gostF_identityBox, fun key hkey => ?_⟩
  · have hlast : ((blk.drop 4).take 4).length = 4 := by simp [hblk]
    rw [gostBlock_of_gostUpdates (gostUpdates_zeroBox ks _), gostBytes_gostWord e hlast,
      gostBytes_gostWord e (by simp [hblk]), List.take_of_length_le (by simp [hblk])]
  · have hslices : ∀ j < 3, (key.drop (4 * j)).take 4 = (key.drop (4 * (j + 5))).take 4 := by
      rw [hkey]
      decide
    have hsubkeys : ∀ j < 3,
        (gostSubkeys .little key).getD j 0 = (gostSubkeys .little key).getD (j + 5) 0 := by
      intro j hj
      rw [gostSubkeys_getD _ _ (by omega), gostSubkeys_getD _ _ (by omega), hslices j hj]
    exact ⟨hsubkeys 0 (by decide), hsubkeys 1 (by decide), hsubkeys 2 (by decide)⟩

/-- Settles O57: the pair iterations use the 32 indices in order, two elementary updates each. -/
theorem gostUpdateOrder : Obligations.GostUpdateOrder := by
  intro t ks ab
  have hindices : flattenPairs (gostForward ++ gostReverse) =
      [0, 1, 2, 3, 4, 5, 6, 7] ++ [0, 1, 2, 3, 4, 5, 6, 7] ++ [0, 1, 2, 3, 4, 5, 6, 7] ++
        [7, 6, 5, 4, 3, 2, 1, 0] := rfl
  rw [← hindices]
  exact foldl_gostPair_eq_foldl_gostUpdate t ks (gostForward ++ gostReverse) 0 ab rfl

end Sys2Proof.Proofs
end

section
/-! What a host's memory access does (R196, R246), what a register access does at the reserved offsets and
what the STATUS word is (R25, R194, R195), and the engine's turn with a command in the latch (R190). -/

namespace Sys2Proof.Proofs

open Sys2Proof Sys2Proof.Machine Sys2Proof.Claims

/-! ### Host memory accesses -/

/-- The model's test for a hazard in the words of R246. -/
theorem busy_and_inLatchedRange_iff (s : State) (a : Nat) :
    (busy s && inLatchedRange s.lat a) = true ↔ hazardAt s a := by
  rw [Bool.and_eq_true, busy_eq_true, inLatchedRange, Bool.or_eq_true, Bool.or_eq_true, has_iff, has_iff,
    has_iff, or_assoc]
  rfl

/-- The faults of an access in a state without the hazard. -/
theorem memAccessFaults_of_not_hazardAt {s : State} {a : Nat} (h : ¬ hazardAt s a) :
    memAccessFaults a s = if memAdmits s.params a then [] else [.hostBusFault] := by
  rw [memAccessFaults, if_neg (mt (busy_and_inLatchedRange_iff s a).mp h), List.append_nil]

/-- The faults of an access that is a hazard. -/
theorem memAccessFaults_of_hazardAt {s : State} {a : Nat} (h : hazardAt s a) :
    memAccessFaults a s = (if memAdmits s.params a then [] else [.hostBusFault]) ++ [.bufferHazard] := by
  rw [memAccessFaults, if_pos ((busy_and_inLatchedRange_iff s a).mpr h)]

theorem hostAct_memRead_of_no_fault {s : State} {addr : Word} (h : memAccessFaults addr.toNat s = []) :
    hostAct (.memRead addr) s = { s with hostBytes := s.hostBytes ++ [readByte s.mem addr.toNat] } := by
  rw [hostAct, hostMemRead, h]

theorem hostAct_memWrite_of_no_fault {s : State} {addr : Word} (b : Byte)
    (h : memAccessFaults addr.toNat s = []) :
    hostAct (.memWrite addr b) s = { s with mem := writeByte s.mem addr.toNat b } := by
  rw [hostAct, hostMemWrite, h]
  rfl

/-- An access that has a fault does nothing but record its faults, whether it reads or writes (R224). -/
theorem hostAct_mem_of_faults {s : State} {addr : Word} {fs : List Fault} (b : Byte)
    (h : memAccessFaults addr.toNat s = fs) (hfs : fs ≠ []) :
    hostAct (.memRead addr) s = { s with faults := s.faults ++ fs } ∧
      hostAct (.memWrite addr b) s = { s with faults := s.faults ++ fs } := by
  cases fs with
  | nil => exact absurd rfl hfs
  | cons f fs =>
    constructor
    · rw [hostAct, hostMemRead, h]
      rfl
    · rw [hostAct, hostMemWrite, h]
      rfl

/-! ### Registers -/

/-- No register stands at the offsets from 0x24 on (R38). -/
theorem regAt_of_reserved : ∀ o : BitVec 6, 0x24 ≤ o.toNat → regAt o = none := by decide

theorem hostAct_regWrite_of_reserved {o : BitVec 6} (ho : 0x24 ≤ o.toNat) (h4 : o.toNat % 4 = 0) (w : Word)
    (s : State) : hostAct (.regWrite .word o w) s = s := by
  rw [hostAct_regWrite_of_legal ((accessLegal_iff .word o).mpr ⟨rfl, h4⟩), writeOffset,
    regAt_of_reserved o ho]

theorem hostAct_regRead_of_reserved {o : BitVec 6} (ho : 0x24 ≤ o.toNat) (h4 : o.toNat % 4 = 0)
    (s : State) : hostAct (.regRead .word o) s = { s with hostV := 0 } := by
  rw [hostAct_regRead_of_legal ((accessLegal_iff .word o).mpr ⟨rfl, h4⟩), readOffset,
    regAt_of_reserved o ho]

theorem seq_eq_busy_of_ne_idle {s : State} (h : s.seq ≠ .idle) : s.seq = .busy := by
  rwa [← busy_eq_true, ← Bool.not_eq_false, busy_eq_false]

/-- Writing a one clears a bit, and writing a zero leaves it (R194). -/
theorem and_not_eq_ite (b c : Bool) : (b && !c) = if c then false else b := by
  cases c with
  | false => exact Bool.and_true b
  | true => exact Bool.and_false b

theorem clearStatus_eq (w : Word) (s : State) : clearStatus w s =
    { s with
      done := if w.getLsbD 1 then false else s.done
      ovr := if w.getLsbD 3 then false else s.ovr } := by
  rw [clearStatus, and_not_eq_ite, and_not_eq_ite]

/-- The STATUS word as the sum of its shifted fields (R25, R195). -/
theorem statusWord_eq_or (s : State) : statusWord s =
    (s.errcode.setWidth 32 <<< 8) ||| ((BitVec.ofBool s.ovr).setWidth 32 <<< 3)
      ||| ((BitVec.ofBool (err s)).setWidth 32 <<< 2)
      ||| ((BitVec.ofBool s.done).setWidth 32 <<< 1)
      ||| (BitVec.ofBool (busy s)).setWidth 32 := by
  rw [← BitVec.setWidth_eq (statusWord s), statusWord]
  simp only [BitVec.setWidth_append_eq_shiftLeft_setWidth_or, BitVec.shiftLeft_or_distrib,
    ← BitVec.shiftLeft_add, BitVec.setWidth_zero, BitVec.zero_shiftLeft, BitVec.zero_or, BitVec.or_zero]

/-- STATUS.ERR in the words of R28. -/
theorem err_eq_decide (s : State) : err s = decide (s.errcode ≠ 0) := by
  rw [err, bne, beq_eq_decide, decide_not]
  rfl

theorem busy_eq_decide (s : State) : busy s = decide (s.seq = .busy) := rfl

/-- The INT_EN word has DONE_IE in bit 0 and nothing else (R37). -/
theorem intEnWord_eq_setWidth (s : State) : intEnWord s = (BitVec.ofBool s.doneIe).setWidth 32 :=
  (BitVec.setWidth_eq_append (by decide)).symm

/-! ### The engine's turn with a command in the latch -/

theorem engineStep_of_command {s : State} {i : Instr} (h : latchedCommand s = .instr i) :
    engineStep s = exec i s := by
  rw [engineStep, h]

/-- A command's word where the engine takes its next command: accepted, and the engine to move. -/
theorem withFetchWord_encode (s : State) (i : Instr) : s.withFetchWord 32 (encode i).toNat =
    { acceptCommand (encode i) s with sched := .engine :: s.sched } := by
  rw [State.withFetchWord, Nat.mod_eq_of_lt (encode i).isLt, BitVec.ofNat_toNat, BitVec.setWidth_eq]

end Sys2Proof.Proofs
end

section
/-! The ECB driver block by block (R180, R183): the blocks are the message's bytes, zero beyond its end, and
the outputs stand in a row. -/

namespace Sys2Proof.Proofs

open Sys2Proof Sys2Proof.Machine Sys2Proof.Claims

/-- Zero filling changes no byte, where a message is read as zero beyond its end. -/
theorem zeroFill_getD (msg : List Byte) (j : Nat) : (zeroFill msg).getD j 0 = msg.getD j 0 := by
  rcases Nat.lt_or_ge j msg.length with h | h
  · rw [zeroFill, List.getD_append _ _ _ _ h]
  · rw [zeroFill, List.getD_append_right _ _ _ _ h, List.getD_eq_default msg _ h]
    rw [List.getD_eq_getElem?_getD]
    exact List.getElem?_getD_replicate_default_eq _ _ _

/-- Block i is the message's bytes 8i to 8i+7. -/
theorem ecbBlockOf_eq_map_getD {msg : List Byte} {i : Nat} (hi : i < cdiv8 msg.length) :
    ecbBlockOf msg i = (List.range 8).map fun j => msg.getD (8 * i + j) 0 := by
  refine List.ext_getElem (by simp [length_ecbBlockOf hi]) fun j hj _ => ?_
  rw [List.getElem_map, List.getElem_range, ← zeroFill_getD, ← List.getD_eq_getElem _ 0 hj]
  have hj8 : j < 8 := length_ecbBlockOf hi ▸ hj
  simp [ecbBlockOf, List.getD_eq_getElem?_getD, hj8]

/-- The ECB output by the message's bytes alone (R180). -/
theorem ecb_eq_flatMap_getD (f : List Byte → List Byte) (msg : List Byte) :
    ecb f msg = (List.range (cdiv8 msg.length)).flatMap fun i =>
      f ((List.range 8).map fun j => msg.getD (8 * i + j) 0) :=
  List.flatMap_congr fun _ hi => by rw [ecbBlockOf_eq_map_getD (List.mem_range.mp hi)]

/-- In a row of n pieces of equal length, piece i stands i lengths from the start. -/
theorem take_drop_flatMap_range {α : Type} {w n : Nat} {g : Nat → List α}
    (hg : ∀ i < n, (g i).length = w) {i : Nat} (hi : i < n) :
    (((List.range n).flatMap g).drop (w * i)).take w = g i := by
  induction n generalizing g i with
  | zero => omega
  | succ n ih =>
    have hfirst : (g 0).length = w := hg 0 (Nat.succ_pos n)
    rw [List.range_succ_eq_map, List.flatMap_cons, List.flatMap_map]
    cases i with
    | zero => rw [Nat.mul_zero, List.drop_zero, List.take_left' hfirst]
    | succ i =>
      rw [Nat.mul_succ, Nat.add_comm, ← List.drop_drop, List.drop_left' hfirst]
      exact ih (fun j hj => hg (j + 1) (Nat.succ_lt_succ hj)) (Nat.lt_of_succ_lt_succ hi)

end Sys2Proof.Proofs
end

section
/-! A command by the outcome of its checks (R190, R216): what they say of the latched ranges, what they look
at, and the state each outcome leaves. -/

namespace Sys2Proof.Proofs

open Sys2Proof Sys2Proof.Machine Sys2Proof.Claims

/-! ### The checks -/

/-- `admitted` in the words of R214. -/
theorem admitted_iff_not_unadmitted (p : Params) (r : Range) :
    admitted p r = true ↔ ¬ unadmitted p r.addr r.len := by
  rw [admitted_iff, unadmitted, addressCount]
  constructor
  · rintro (h0 | ⟨hend, hall⟩) ⟨hpos, hpast | ⟨i, hi, hfalse⟩⟩
    · omega
    · omega
    · omega
    · simp [hall i hi] at hfalse
  · intro h
    rcases Nat.eq_zero_or_pos r.len with h0 | hpos
    · exact .inl h0
    · refine .inr ⟨by_contra fun hend => h ⟨hpos, .inl (by omega)⟩, fun i hi => ?_⟩
      by_contra hnot
      exact h ⟨hpos, .inr ⟨i, hi, Bool.eq_false_of_not_eq_true hnot⟩⟩

/-- Ranges that overlap share the later of their first bytes, so ranges without a common byte do not. -/
theorem overlap_eq_false_of_apart {r q : Range}
    (h : ∀ a, within r.addr r.len a → ¬ within q.addr q.len a) : overlap r q = false := by
  rw [← Bool.not_eq_true, overlap_iff]
  rintro ⟨hr, hq, hrq, hqr⟩
  exact h (max r.addr q.addr) ⟨by omega, by omega⟩ ⟨by omega, by omega⟩

/-- The conditions on the latch under which a command runs (R213 to R215) pass all its checks. -/
theorem commandError_eq_none_of_apart {i : Instr} {s : State} (hlen : s.lat.keyLen.toNat = keyBytes i)
    (hkey : ¬ unadmitted s.params s.lat.keyAddr.toNat (keyBytes i))
    (hsrc : ¬ unadmitted s.params s.lat.srcAddr.toNat s.lat.srcLen.toNat)
    (hdst : ¬ unadmitted s.params s.lat.dstAddr.toNat ((s.lat.srcLen.toNat + 7) / 8 * 8))
    (hapart : ∀ a, within s.lat.dstAddr.toNat ((s.lat.srcLen.toNat + 7) / 8 * 8) a →
      ¬ within s.lat.keyAddr.toNat (keyBytes i) a ∧
        ¬ within s.lat.srcAddr.toNat s.lat.srcLen.toNat a) :
    commandError s.params (keyBytes i) s.lat = none := by
  rw [← hlen] at hkey hapart
  exact (commandError_eq_none _ _ _).mpr ⟨hlen, (admitted_iff_not_unadmitted _ _).mpr hkey,
    (admitted_iff_not_unadmitted _ _).mpr hsrc, (admitted_iff_not_unadmitted _ _).mpr hdst,
    overlap_eq_false_of_apart fun a ha => (hapart a ha).1,
    overlap_eq_false_of_apart fun a ha => (hapart a ha).2⟩

/-- With an empty message only the key is checked (R182). -/
theorem commandError_eq_none_of_empty {i : Instr} {s : State} (hlen : s.lat.keyLen.toNat = keyBytes i)
    (hsrc : s.lat.srcLen = 0) (hkey : ¬ unadmitted s.params s.lat.keyAddr.toNat s.lat.keyLen.toNat) :
    commandError s.params (keyBytes i) s.lat = none := by
  have hnone : ∀ {addr a : Nat}, ¬ within addr 0 a := fun ⟨hle, hlt⟩ => by omega
  have hempty : ∀ {addr : Nat}, ¬ unadmitted s.params addr 0 := fun ⟨hpos, _⟩ => by omega
  refine commandError_eq_none_of_apart hlen (hlen ▸ hkey) ?_ ?_ ?_ <;> simp only [hsrc]
  · exact hempty
  · exact hempty
  · exact fun a ha => absurd ha hnone

/-- Of the parameters, the checks look at `MEM_ADMIT` only. -/
theorem commandError_congr {p p' : Params} (h : p.memAdmit = p'.memAdmit) (need : Nat) (l : Latched) :
    commandError p need l = commandError p' need l := by
  have hbyte : memAdmits p = memAdmits p' := by
    funext a
    rw [memAdmits, memAdmits, h]
  have hrange : admitted p = admitted p' := by
    funext r
    rw [Bool.eq_iff_iff, admitted_iff, admitted_iff, hbyte]
  rw [commandError, commandError, hrange]

/-- An output as long as the address space would lie over the key, so a command that passes its checks has a
length that OUT_LEN holds whole (R36). -/
theorem dstRange_len_lt_of_commandError_eq_none {i : Instr} {s : State}
    (h : commandError s.params (keyBytes i) s.lat = none) : (dstRange s.lat).len < 2 ^ 32 := by
  obtain ⟨hlen, -, -, hdst, happart, -⟩ := (commandError_eq_none _ _ _).mp h
  have hpos : 0 < (keyRange s.lat).len := (keyBytes_pos i).trans_eq hlen.symm
  have haddr : (keyRange s.lat).addr < 2 ^ 32 := s.lat.keyAddr.isLt
  by_contra hbig
  rw [admitted_iff, addressCount] at hdst
  rcases hdst with h0 | ⟨hend, -⟩
  · omega
  · rw [← Bool.not_eq_true, overlap_iff] at happart
    exact happart ⟨by omega, hpos, by omega, by omega⟩

/-! ### The two outcomes -/

/-- The bytes a command that passes its checks writes: its cipher on its key and message (R186, R187). -/
def outputOf (i : Instr) (s : State) : List Byte :=
  cipherOf s.params i (readBytes s.mem (keyRange s.lat).addr (keyRange s.lat).len)
    (readBytes s.mem (srcRange s.lat).addr (srcRange s.lat).len)

/-- The state a command that passes its checks leaves (R190, R191). -/
def succeeded (i : Instr) (s : State) : State :=
  complete .success (dstRange s.lat).len (storeBytes (dstRange s.lat).addr (outputOf i s) s)

theorem exec_of_commandError_eq_some {i : Instr} {s : State} {c : ErrCode}
    (h : commandError s.params (keyBytes i) s.lat = some c) : exec i s = .next (raiseError c s) := by
  rw [exec_eq, runCommand, h]

theorem exec_of_commandError_eq_none {i : Instr} {s : State}
    (h : commandError s.params (keyBytes i) s.lat = none) : exec i s = .next (succeeded i s) := by
  rw [exec_eq, runCommand, h]
  rfl

theorem length_outputOf (i : Instr) (s : State) : (outputOf i s).length = (dstRange s.lat).len := by
  rw [outputOf, length_cipherOf, length_readBytes]
  rfl

/-- After success, the output range holds the output and every other byte is as it was (R78). -/
theorem readByte_succeeded (i : Instr) (s : State) (a : Nat) : readByte (succeeded i s).mem a =
    if (dstRange s.lat).addr ≤ a ∧ a < (dstRange s.lat).addr + (dstRange s.lat).len then
      (outputOf i s).getD (a - (dstRange s.lat).addr) 0
    else readByte s.mem a := by
  rw [← length_outputOf i s]
  exact readByte_writeBytes (outputOf i s) s.mem (dstRange s.lat).addr a

theorem readByte_succeeded_of_not_within {i : Instr} {s : State} {a : Nat}
    (h : ¬ within (dstRange s.lat).addr (dstRange s.lat).len a) :
    readByte (succeeded i s).mem a = readByte s.mem a := by
  rw [readByte_succeeded]
  exact if_neg h

theorem readByte_succeeded_of_within {i : Instr} {s : State} {a : Nat}
    (h : within (dstRange s.lat).addr (dstRange s.lat).len a) :
    readByte (succeeded i s).mem a = (outputOf i s).getD (a - (dstRange s.lat).addr) 0 := by
  rw [readByte_succeeded]
  exact if_pos h

/-- The output depends on the key's bytes, the message's bytes and the S-box, and on nothing else. -/
theorem outputOf_congr {i : Instr} {s s' : State} (hlat : s.lat = s'.lat)
    (hbox : s.params.gostSbox = s'.params.gostSbox)
    (hmem : ∀ a, within s.lat.keyAddr.toNat s.lat.keyLen.toNat a ∨
      within s.lat.srcAddr.toNat s.lat.srcLen.toNat a → readByte s.mem a = readByte s'.mem a) :
    outputOf i s = outputOf i s' := by
  have hcipher : cipherOf s.params i = cipherOf s'.params i := by
    cases i with
    | desEcbEncrypt => rfl
    | gostEcbEncrypt => rw [cipherOf, cipherOf, hbox]
  have hkey : readBytes s.mem (keyRange s.lat).addr (keyRange s.lat).len =
      readBytes s'.mem (keyRange s.lat).addr (keyRange s.lat).len :=
    readBytes_congr fun a hle hlt => hmem a (.inl ⟨hle, hlt⟩)
  have hsrc : readBytes s.mem (srcRange s.lat).addr (srcRange s.lat).len =
      readBytes s'.mem (srcRange s.lat).addr (srcRange s.lat).len :=
    readBytes_congr fun a hle hlt => hmem a (.inr ⟨hle, hlt⟩)
  rw [outputOf, hcipher, hkey, hsrc, hlat, outputOf]

/-- The whole effect of a command that passes its checks, for either cipher (R186, R187, R190). -/
theorem exec_encrypts {i : Instr} {s : State} (h : commandError s.params (keyBytes i) s.lat = none) :
    ∃ t out, exec i s = .next t ∧
      out = cipherOf s.params i (readBytes s.mem s.lat.keyAddr.toNat (keyBytes i))
        (readBytes s.mem s.lat.srcAddr.toNat s.lat.srcLen.toNat) ∧
      out.length = (s.lat.srcLen.toNat + 7) / 8 * 8 ∧
      t = { s with
        errcode := 0, outLen := t.outLen, done := true, seq := .idle, lat := Latched.zero, mem := t.mem } ∧
      t.outLen.toNat = (s.lat.srcLen.toNat + 7) / 8 * 8 ∧
      ∀ a, readByte t.mem a =
        if s.lat.dstAddr.toNat ≤ a ∧ a < s.lat.dstAddr.toNat + (s.lat.srcLen.toNat + 7) / 8 * 8 then
          out.getD (a - s.lat.dstAddr.toNat) 0
        else readByte s.mem a := by
  obtain ⟨hlen, -⟩ := (commandError_eq_none _ _ _).mp h
  have hout : (succeeded i s).outLen.toNat = (dstRange s.lat).len :=
    (BitVec.toNat_ofNat _ _).trans (Nat.mod_eq_of_lt (dstRange_len_lt_of_commandError_eq_none h))
  exact ⟨succeeded i s, outputOf i s, exec_of_commandError_eq_none h, hlen ▸ rfl, length_outputOf i s, rfl,
    hout, readByte_succeeded i s⟩

end Sys2Proof.Proofs
end

section
/-! The statements of the family 43_ecb_commands.md. -/

namespace Sys2Proof.Proofs

open Sys2Proof Sys2Proof.Machine Sys2Proof.Claims

/-- Settles O17, by the faults of the access in each of the four cases. -/
theorem hostMemoryAccess : Obligations.HostMemoryAccess := by
  intro s addr b
  refine ⟨fun hadm hsafe => ?_, fun hadm hsafe => ?_, fun hadm hhaz => ?_, fun hadm hhaz => ?_⟩
  · have hnone : memAccessFaults addr.toNat s = [] := by
      simp [memAccessFaults_of_not_hazardAt hsafe, hadm]
    rw [hostAct_memWrite_of_no_fault b hnone]
    exact ⟨hostAct_memRead_of_no_fault hnone, rfl, fun a => readByte_writeByte s.mem addr.toNat a b⟩
  · exact hostAct_mem_of_faults b (by simp [memAccessFaults_of_not_hazardAt hsafe, hadm]) (by simp)
  · exact hostAct_mem_of_faults b (by simp [memAccessFaults_of_hazardAt hhaz, hadm]) (by simp)
  · have hboth : memAccessFaults addr.toNat s = [.hostBusFault, .bufferHazard] := by
      simp [memAccessFaults_of_hazardAt hhaz, hadm]
    exact ⟨_, .refl _, hostAct_mem_of_faults b hboth (by simp)⟩

/-- Settles O21: the conditions pass the checks of a command whose key is 8 bytes. -/
theorem desCommandEncrypts : Obligations.DesCommandEncrypts := by
  intro s hlen hkey hsrc hdst hapart
  have hneed : s.lat.keyLen.toNat = keyBytes .desEcbEncrypt := congrArg BitVec.toNat hlen
  exact exec_encrypts (commandError_eq_none_of_apart hneed hkey hsrc hdst hapart)

/-- Settles O22: the conditions pass the checks of a command whose key is 32 bytes. -/
theorem gostCommandEncrypts : Obligations.GostCommandEncrypts := by
  intro s hlen hkey hsrc hdst hapart
  have hneed : s.lat.keyLen.toNat = keyBytes .gostEcbEncrypt := congrArg BitVec.toNat hlen
  exact exec_encrypts (commandError_eq_none_of_apart hneed hkey hsrc hdst hapart)

/-- Settles O28, by the outcome of the checks. -/
theorem commandFrame : Obligations.CommandFrame := by
  intro i s t h
  cases hc : commandError s.params (keyBytes i) s.lat with
  | some c =>
    obtain rfl : raiseError c s = t := by simpa [exec_of_commandError_eq_some hc] using h
    exact ⟨rfl, rfl, rfl, rfl, rfl, rfl, rfl, rfl, rfl, rfl, rfl, rfl, rfl, rfl, fun _ => rfl,
      fun _ _ => rfl⟩
  | none =>
    obtain rfl : succeeded i s = t := by simpa [exec_of_commandError_eq_none hc] using h
    exact ⟨rfl, rfl, rfl, rfl, rfl, rfl, rfl, rfl, rfl, rfl, rfl, rfl, rfl, rfl,
      fun herr => absurd rfl herr, fun _ => readByte_succeeded_of_not_within⟩

/-- Settles O29: the two states fail the same check, or pass them all and compute the same output. -/
theorem outcomeDependsOnInputsOnly : Obligations.OutcomeDependsOnInputsOnly := by
  intro i s s' hlat hadm hbox hmem
  have hcheck : commandError s.params (keyBytes i) s.lat = commandError s'.params (keyBytes i) s'.lat := by
    rw [← hlat, commandError_congr hadm]
  cases hc : commandError s.params (keyBytes i) s.lat with
  | some c =>
    refine ⟨_, _, exec_of_commandError_eq_some hc, exec_of_commandError_eq_some (hcheck ▸ hc), rfl, rfl, rfl,
      rfl, rfl, fun a herr _ => ?_⟩
    rcases commandError_cases hc with rfl | rfl | rfl <;> simp [errNumber] at herr
  | none =>
    have hout := outputOf_congr (i := i) hlat hbox hmem
    refine ⟨_, _, exec_of_commandError_eq_none hc, exec_of_commandError_eq_none (hcheck ▸ hc), rfl, ?_, rfl,
      rfl, rfl, fun a _ hin => ?_⟩
    · exact congrArg (fun l => BitVec.ofNat 32 (dstRange l).len) hlat
    · rw [readByte_succeeded_of_within hin, readByte_succeeded_of_within (hlat ▸ hin), hout, hlat]

/-- Settles O43: both block functions give 8 bytes. -/
theorem outputLengthLaw : Obligations.OutputLengthLaw := fun _ msg =>
  ⟨length_ecb msg fun _ _ => length_desBlockBytes _ _,
    fun _ _ => length_ecb msg fun _ _ => length_gostBlock _ _ _ _⟩

/-- Settles O44: the output is a row of pieces of 8 bytes, one a block. -/
theorem blockOutputPlacement : Obligations.BlockOutputPlacement := by
  intro f msg i hf hi
  rw [ecb_eq_flatMap_getD]
  exact take_drop_flatMap_range (fun _ _ => hf _ (by simp)) hi

/-- Settles O45: the output is computed from the number of blocks and the message read as zero beyond its
end. -/
theorem paddingTransparency : Obligations.PaddingTransparency := by
  intro f m1 m2 hblocks hbytes
  have hcount : cdiv8 m1.length = cdiv8 m2.length := hblocks
  simp only [ecb_eq_flatMap_getD, hcount, hbytes]

/-- Settles O4: the turn used up is no part of what the latch decodes to. -/
theorem stepRunsLatchedCommand : Obligations.StepRunsLatchedCommand := by
  intro s i hm hbusy hi
  have hturn : latchedCommand (takeTurn s) = .instr i := hi
  exact ⟨by rw [step_of_engine_busy hm hbusy, engineStep_of_command hturn], rfl⟩

/-- Settles O5: the accepted word decodes to its command, and using up the engine's turn gives back the
interleaving before it. -/
theorem fetchedWordRuns : Obligations.FetchedWordRuns := by
  intro s i
  rw [withFetchWord_encode]
  have hdecodes : decode (encode i) = .instr i := (decode_eq_instr_iff _ i).mpr rfl
  obtain ⟨hstep, -⟩ := stepRunsLatchedCommand
    { acceptCommand (encode i) s with sched := .engine :: s.sched } i rfl rfl hdecodes
  exact hstep

/-- Settles O8: acceptance clears DONE, so IRQ falls. -/
theorem commandAccepted : Obligations.CommandAccepted := by
  intro s w hidle
  rw [hostAct_write_cmd_of_idle w hidle]
  exact ⟨rfl, Bool.and_false _⟩

/-- Settles O9: the write is dropped. -/
theorem commandDroppedWhileBusy : Obligations.CommandDroppedWhileBusy :=
  fun _ w hbusy => hostAct_write_cmd_of_busy w hbusy

/-- Settles O10: the registers offset by offset. CMD depends on the sequencer, and a STATUS write finds
DONE already clear while BUSY. -/
theorem registerWriteEffects : Obligations.RegisterWriteEffects := by
  intro s w
  refine ⟨?_, clearStatus_eq w s, fun hinv hbusy => ?_, rfl, rfl, rfl, rfl, rfl, rfl, rfl,
    fun o ho h4 => hostAct_regWrite_of_reserved ho h4 w s⟩
  · split
    next hs => exact hostAct_write_cmd_of_idle w hs
    next hs => exact hostAct_write_cmd_of_busy w (seq_eq_busy_of_ne_idle hs)
  · obtain ⟨hdone, -⟩ := hinv.busyClear hbusy
    rw [hostAct_write_status, clearStatus_eq, hdone, ite_self, ← hdone]

/-- Settles O11: the registers offset by offset, with STATUS and INT_EN put together from their fields. -/
theorem registerReadValues : Obligations.RegisterReadValues := by
  intro s
  refine ⟨rfl, ?_, rfl, rfl, rfl, rfl, rfl, rfl, ?_, fun o ho h4 => hostAct_regRead_of_reserved ho h4 s⟩
  · rw [← err_eq_decide, ← busy_eq_decide, ← statusWord_eq_or]
    rfl
  · rw [← intEnWord_eq_setWidth]
    rfl

/-- Settles O31: only the key is checked, and the output has no bytes. -/
theorem emptyMessageSucceeds : Obligations.EmptyMessageSucceeds := by
  refine ⟨fun i s hlen hsrc hkey => ?_, fun _ => rfl, fun _ _ _ => rfl⟩
  have hdst : (dstRange s.lat).len = 0 := by
    simp only [dstRange, hsrc]
    rfl
  have hout : outputOf i s = [] := List.eq_nil_of_length_eq_zero ((length_outputOf i s).trans hdst)
  rw [exec_of_commandError_eq_none (commandError_eq_none_of_empty hlen hsrc hkey), succeeded, hdst, hout]
  rfl

end Sys2Proof.Proofs
end

section
/-! What each check of a command says when it is the first to fail (R213 to R216), with the code that the
outcome puts in ERRCODE, and what every engine step leaves (R191, R217). -/

namespace Sys2Proof.Proofs

open Sys2Proof Sys2Proof.Machine Sys2Proof.Claims

/-! ### The first check that fails -/

theorem commandError_of_keyLen_ne {p : Params} {need : Nat} {l : Latched} (h : l.keyLen.toNat ≠ need) :
    commandError p need l = some .invalidKeyLength :=
  if_pos h

/-- The same for the command, with the length it needs as a register's value (R213). -/
theorem exec_of_keyLen_ne {i : Instr} {s : State} {need : Word} (hneed : need.toNat = keyBytes i)
    (h : s.lat.keyLen ≠ need) : exec i s = .next (failedWith 2 s) :=
  exec_of_commandError_eq_some <| commandError_of_keyLen_ne fun hlen =>
    h (BitVec.eq_of_toNat_eq (hlen.trans hneed.symm))

theorem commandError_of_not_admitted {p : Params} {need : Nat} {l : Latched} (hlen : l.keyLen.toNat = need)
    (h : ¬ (admitted p (keyRange l) = true ∧ admitted p (srcRange l) = true ∧
      admitted p (dstRange l) = true)) : commandError p need l = some .range := by
  rw [commandError, if_neg (not_not_intro hlen), if_pos]
  simpa [or_assoc, imp_iff_not_or] using h

theorem commandError_of_overlap {p : Params} {need : Nat} {l : Latched} (hlen : l.keyLen.toNat = need)
    (hadm : admitted p (keyRange l) = true ∧ admitted p (srcRange l) = true ∧
      admitted p (dstRange l) = true)
    (h : overlap (dstRange l) (keyRange l) = true ∨ overlap (dstRange l) (srcRange l) = true) :
    commandError p need l = some .overlap := by
  obtain ⟨hkey, hsrc, hdst⟩ := hadm
  rw [commandError, if_neg (not_not_intro hlen), if_neg (by simp [hkey, hsrc, hdst]),
    if_pos (by simpa using h)]

/-- Two ranges with a common byte overlap (R79). -/
theorem overlap_of_within {r q : Range} {a : Nat} (hr : within r.addr r.len a)
    (hq : within q.addr q.len a) : overlap r q = true := by
  obtain ⟨hrle, hrlt⟩ := hr
  obtain ⟨hqle, hqlt⟩ := hq
  rw [overlap_iff]
  omega

/-! ### The code -/

/-- The number of the first error in the order of R216, and 0 for a command that has none. -/
theorem errNumber_commandError (p : Params) (need : Nat) (l : Latched) :
    errNumber ((commandError p need l).getD .success) =
      if l.keyLen.toNat ≠ need then 2
      else if ¬ (admitted p (keyRange l) ∧ admitted p (srcRange l) ∧ admitted p (dstRange l)) then 3
      else if overlap (dstRange l) (keyRange l) ∨ overlap (dstRange l) (srcRange l) then 4
      else 0 := by
  split_ifs with hlen hadm hover
  · rw [commandError_of_keyLen_ne hlen]
    rfl
  · rw [commandError_of_overlap (not_not.mp hlen) hadm hover]
    rfl
  · obtain ⟨hkey, hsrc, hdst⟩ := hadm
    obtain ⟨hdstKey, hdstSrc⟩ := not_or.mp hover
    rw [(commandError_eq_none p need l).mpr ⟨not_not.mp hlen, hkey, hsrc, hdst,
      Bool.eq_false_of_not_eq_true hdstKey, Bool.eq_false_of_not_eq_true hdstSrc⟩]
    rfl
  · rw [commandError_of_not_admitted (not_not.mp hlen) hadm]
    rfl

theorem errNumber_le_four (c : ErrCode) : (errNumber c).toNat ≤ 4 := by cases c <;> decide

/-- A command that fails a check fails it whatever memory holds, and leaves that memory alone (R216). -/
theorem exec_with_mem_of_commandError_eq_some {i : Instr} {s : State} {c : ErrCode}
    (h : commandError s.params (keyBytes i) s.lat = some c) (m : List Host.Cell) :
    exec i { s with mem := m } = .next { raiseError c s with mem := m } :=
  exec_of_commandError_eq_some (s := { s with mem := m }) h

end Sys2Proof.Proofs
end

section
/-! What a step can do to IRQ's two inputs, DONE and DONE_IE (R43, R220), and to the fault list (R224). -/

namespace Sys2Proof.Proofs

open Sys2Proof Sys2Proof.Machine Sys2Proof.Claims

/-! ### The interrupt -/

/-- A host operation other than a write to INT_EN leaves DONE_IE alone (R194 to R196). -/
theorem hostAct_doneIe (op : HostOp) (s : State) :
    (∃ w, op = .regWrite .word 0x20 w) ∨ (hostAct op s).doneIe = s.doneIe := by
  rcases hostAct_cases op s with ⟨f, h⟩ | ⟨f, g, h⟩ | ⟨v, h⟩ | ⟨bs, h⟩ | h | ⟨a, b, -, -, h⟩ |
    ⟨o, r, w, rfl, rfl, h⟩
  case inr.inr.inr.inr.inr.inr =>
    rw [h]
    cases r with
    | cmd =>
      rw [writeReg]
      split <;> exact .inr rfl
    | intEn => exact .inl ⟨w, rfl⟩
    | status | keyAddr | keyLen | srcAddr | srcLen | dstAddr | outLen => exact .inr rfl
  all_goals
    rw [h]
    exact .inr rfl

/-- Besides a reset, only the host's write to INT_EN can move DONE_IE (R37). -/
theorem step_doneIe_cases {s t : State} (h : step s = .next t) :
    nextMover s = .reset ∨ (∃ w, hostDoes s (.regWrite .word 0x20 w)) ∨ t.doneIe = s.doneIe := by
  rcases step_cases h with ⟨hm, rfl⟩ | ⟨-, -, rfl⟩ | ⟨-, -, c, -, rfl⟩ | ⟨-, -, i, -, -, rfl⟩ | ⟨hm, -⟩
  · rcases hostStep_cases (takeTurn s) with ⟨-, heq⟩ | ⟨op, rest, p, hprog, heq⟩
    · rw [heq]
      exact .inr (.inr rfl)
    · rcases hostAct_doneIe op (takeTurn s) with ⟨w, rfl⟩ | hsame
      · exact .inr (.inl ⟨w, hm, by rw [← takeTurn_prog, hprog]; rfl⟩)
      · exact .inr (.inr ((congrArg State.doneIe heq).trans hsame))
  · exact .inr (.inr rfl)
  · exact .inr (.inr rfl)
  · exact .inr (.inr rfl)
  · exact .inl hm

/-- The host's write to INT_EN sets DONE_IE to bit 0 of its word (R37, R194). -/
theorem step_enables {s t : State} {w : Word} (h : step s = .next t)
    (hop : hostDoes s (.regWrite .word 0x20 w)) : t.doneIe = w.getLsbD 0 := by
  obtain ⟨p, rfl⟩ := eq_hostAct_of_hostDoes hop h
  rfl

theorem irq_eq_true_iff (s : State) : irq s = true ↔ s.doneIe = true ∧ s.done = true :=
  Bool.and_eq_true_iff

theorem irq_eq_false_iff (s : State) : irq s = false ↔ s.doneIe = false ∨ s.done = false :=
  Bool.and_eq_false_iff

/-! ### The fault list -/

/-- A host operation appends faults and does nothing else, or leaves the fault list alone (R224). -/
theorem hostAct_records (op : HostOp) (s : State) :
    (∃ fs, hostAct op s = recordFaults fs s) ∨ (hostAct op s).faults = s.faults := by
  rcases hostAct_cases op s with ⟨f, h⟩ | ⟨f, g, h⟩ | ⟨v, h⟩ | ⟨bs, h⟩ | h | ⟨a, b, -, -, h⟩ |
    ⟨o, r, w, -, -, h⟩
  · exact .inl ⟨_, h⟩
  · exact .inl ⟨_, h⟩
  case inr.inr.inr.inr.inr.inr => exact .inr ((congrArg State.faults h).trans (writeReg_mem_faults r w s).2)
  all_goals exact .inr (by simp [h])

theorem resetEvent_faults (s : State) : (resetEvent s).faults = s.faults := by
  rcases abandonCommand_cases s with ⟨h, -⟩ | ⟨-, -, h⟩ <;> rw [resetEvent, h] <;> rfl

/-- A host's step appends faults and changes nothing else of the hardware, or leaves the fault list alone. -/
theorem hostStep_records (s : State) :
    (∃ fs, (hostStep s).faults = s.faults ++ fs ∧
      (hostStep s).hardware = (recordFaults fs s).hardware) ∨ (hostStep s).faults = s.faults := by
  rcases hostStep_cases s with ⟨-, heq⟩ | ⟨op, rest, p, -, heq⟩ <;> rw [heq]
  · exact .inr rfl
  · rcases hostAct_records op s with ⟨fs, h⟩ | h
    · rw [h]
      exact .inl ⟨fs, rfl, rfl⟩
    · exact .inr h

end Sys2Proof.Proofs
end

section
/-! The machine's invariant (R39, R60, R181, R188, R191, R211), kept by each kind of step. -/

namespace Sys2Proof.Proofs

open Sys2Proof Sys2Proof.Machine Sys2Proof.Claims

/-- The invariant speaks of six fields only. -/
theorem inv_of_fields_eq {s t : State} (hs : s.Inv) (hmem : t.mem = s.mem) (herr : t.errcode = s.errcode)
    (hout : t.outLen = s.outLen) (hseq : t.seq = s.seq) (hdone : t.done = s.done) (hlat : t.lat = s.lat) :
    t.Inv where
  memCanonical := hmem ▸ hs.memCanonical
  errcodeKnown := herr ▸ hs.errcodeKnown
  outLenWhole := hout ▸ hs.outLenWhole
  outLenOnError := by rw [herr, hout]; exact hs.outLenOnError
  busyClear := by rw [hseq, hdone, herr, hout]; exact hs.busyClear
  idleLatch := by rw [hseq, hlat]; exact hs.idleLatch

theorem inv_with_mem {s : State} (hs : s.Inv) {m : List Host.Cell} (hm : Memory.wf m = true) :
    State.Inv { s with mem := m } :=
  { hs with memCanonical := hm }

/-! ### The host -/

theorem inv_acceptCommand {s : State} (hs : s.Inv) (w : Word) : (acceptCommand w s).Inv where
  memCanonical := hs.memCanonical
  errcodeKnown := Nat.zero_le 4
  outLenWhole := rfl
  outLenOnError := fun _ => rfl
  busyClear := fun _ => ⟨rfl, rfl, rfl⟩
  idleLatch := nofun

theorem inv_clearStatus {s : State} (hs : s.Inv) (w : Word) : (clearStatus w s).Inv :=
  { hs with
    busyClear := fun hbusy => by
      obtain ⟨hdone, herr, hout⟩ := hs.busyClear hbusy
      exact ⟨by rw [clearStatus_done, hdone, Bool.false_and], herr, hout⟩ }

theorem inv_writeReg {s : State} (hs : s.Inv) (r : Reg) (w : Word) : (writeReg r w s).Inv := by
  cases r with
  | cmd =>
    rw [writeReg]
    split
    · exact inv_of_fields_eq hs rfl rfl rfl rfl rfl rfl
    · exact inv_acceptCommand hs w
  | status => exact inv_clearStatus hs w
  | keyAddr | keyLen | srcAddr | srcLen | dstAddr | outLen | intEn =>
    exact inv_of_fields_eq hs rfl rfl rfl rfl rfl rfl

theorem inv_hostAct {s : State} (hs : s.Inv) (op : HostOp) : (hostAct op s).Inv := by
  rcases hostAct_cases op s with ⟨f, h⟩ | ⟨f, g, h⟩ | ⟨v, h⟩ | ⟨bs, h⟩ | h | ⟨addr, b, -, -, h⟩ |
    ⟨o, r, w, -, -, h⟩ <;> rw [h]
  case inr.inr.inr.inr.inr.inl => exact inv_with_mem hs (wf_writeByte hs.memCanonical addr.isLt)
  case inr.inr.inr.inr.inr.inr => exact inv_writeReg hs r w
  all_goals exact inv_of_fields_eq hs rfl rfl rfl rfl rfl rfl

theorem inv_hostStep {s : State} (hs : s.Inv) : (hostStep s).Inv := by
  rcases hostStep_cases s with ⟨-, heq⟩ | ⟨op, rest, p, -, heq⟩ <;> rw [heq]
  · exact hs
  · exact inv_of_fields_eq (inv_hostAct hs op) rfl rfl rfl rfl rfl rfl

/-! ### The engine and the reset -/

/-- An error completion, over any memory in canonical form. -/
theorem inv_raiseError {s : State} (hmem : Memory.wf s.mem = true) (c : ErrCode) : (raiseError c s).Inv where
  memCanonical := hmem
  errcodeKnown := errNumber_le_four c
  outLenWhole := rfl
  outLenOnError := fun _ => rfl
  busyClear := nofun
  idleLatch := fun _ => rfl

/-- A successful completion with an output of whole blocks, over any memory in canonical form. -/
theorem inv_complete_success {s : State} {n : Nat} (hmem : Memory.wf s.mem = true) (hn : n % 8 = 0) :
    (complete .success n s).Inv where
  memCanonical := hmem
  errcodeKnown := errNumber_le_four .success
  outLenWhole := by
    rw [complete_outLen, BitVec.toNat_ofNat]
    omega
  outLenOnError := fun herr => absurd rfl herr
  busyClear := nofun
  idleLatch := fun _ => rfl

/-- An output range that is admitted lies below 2^32, so bytes stored there keep memory canonical (R79). -/
theorem wf_writeBytes_of_admitted {p : Params} {r : Range} {m : List Host.Cell} {bs : List Byte}
    (hm : Memory.wf m = true) (hr : admitted p r = true) (hlen : bs.length = r.len) :
    Memory.wf (writeBytes m r.addr bs) = true := by
  refine wf_writeBytes bs hm ?_
  rcases (admitted_iff p r).mp hr with h0 | ⟨hend, -⟩
  · exact .inl (List.eq_nil_of_length_eq_zero (hlen.trans h0))
  · exact .inr (hlen ▸ hend)

theorem dstRange_len_mod_eight (l : Latched) : (dstRange l).len % 8 = 0 := Nat.mul_mod_left _ 8

theorem inv_succeeded {s : State} (hs : s.Inv) {i : Instr}
    (h : commandError s.params (keyBytes i) s.lat = none) : (succeeded i s).Inv := by
  obtain ⟨-, -, -, hdst, -, -⟩ := (commandError_eq_none _ _ _).mp h
  exact inv_complete_success (wf_writeBytes_of_admitted hs.memCanonical hdst (length_outputOf i s))
    (dstRange_len_mod_eight s.lat)

theorem wf_abandonCommand {s : State} (hm : Memory.wf s.mem = true) :
    Memory.wf (abandonCommand s).mem = true := by
  rcases abandonCommand_cases s with ⟨heq, -⟩ | ⟨-, hpass, heq⟩ <;> rw [heq]
  · exact hm
  · obtain ⟨i, -, hnone⟩ := (latchedPasses_iff s).mp hpass
    obtain ⟨-, -, -, hdst, -, -⟩ := (commandError_eq_none _ _ _).mp hnone
    exact wf_writeBytes_of_admitted hm hdst (length_drawnBytes _ _)

theorem inv_resetEvent {s : State} (hs : s.Inv) : (resetEvent s).Inv where
  memCanonical := wf_abandonCommand hs.memCanonical
  errcodeKnown := Nat.zero_le 4
  outLenWhole := rfl
  outLenOnError := fun _ => rfl
  busyClear := nofun
  idleLatch := fun _ => rfl

end Sys2Proof.Proofs
end

section
/-! The statements of the family 60_exceptions.md. -/

namespace Sys2Proof.Proofs

open Sys2Proof Sys2Proof.Machine Sys2Proof.Claims

/-- Settles O33, by the kinds of step. -/
theorem stepKeepsMachineInvariant : Obligations.StepKeepsMachineInvariant := by
  intro s t hs h
  have hturn : (takeTurn s).Inv := inv_of_fields_eq hs rfl rfl rfl rfl rfl rfl
  rcases step_cases h with ⟨-, rfl⟩ | ⟨-, -, rfl⟩ | ⟨-, -, c, -, rfl⟩ | ⟨-, -, i, -, hnone, rfl⟩ | ⟨-, rfl⟩
  · exact inv_hostStep hturn
  · exact hturn
  · exact inv_raiseError hturn.memCanonical c
  · exact inv_succeeded hturn hnone
  · exact inv_resetEvent hturn

/-- Settles O24: one of the three ranges is not `admitted`. -/
theorem rangeError : Obligations.RangeError := by
  intro i s hlen hbad
  refine exec_of_commandError_eq_some (commandError_of_not_admitted hlen fun ⟨hkey, hsrc, hdst⟩ => ?_)
  rw [admitted_iff_not_unadmitted] at hkey hsrc hdst
  rcases hbad with hbad | hbad | hbad
  · exact hkey hbad
  · exact hsrc hbad
  · exact hdst hbad

/-- Settles O25: a shared byte makes two ranges overlap. -/
theorem overlapError : Obligations.OverlapError := by
  intro i s a hlen hkey hsrc hdst hin hshared
  refine exec_of_commandError_eq_some (commandError_of_overlap hlen ⟨?_, ?_, ?_⟩ ?_)
  · exact (admitted_iff_not_unadmitted s.params (keyRange s.lat)).mpr hkey
  · exact (admitted_iff_not_unadmitted s.params (srcRange s.lat)).mpr hsrc
  · exact (admitted_iff_not_unadmitted s.params (dstRange s.lat)).mpr hdst
  · exact hshared.imp (overlap_of_within (r := dstRange s.lat) (q := keyRange s.lat) hin)
      (overlap_of_within (r := dstRange s.lat) (q := srcRange s.lat) hin)

/-- Settles O26, by the outcome of the checks, which never look at memory. -/
theorem errorPriority : Obligations.ErrorPriority := by
  intro s
  refine ⟨fun hnone m => engineStep_of_no_command (s := { s with mem := m }) hnone, fun i hi => ?_⟩
  rw [← errNumber_commandError, engineStep_of_command hi]
  cases hc : commandError s.params (keyBytes i) s.lat with
  | some c =>
    refine ⟨_, exec_of_commandError_eq_some hc, rfl, fun _ m => ?_⟩
    rw [engineStep_of_command (s := { s with mem := m }) hi, exec_with_mem_of_commandError_eq_some hc]
  | none => exact ⟨_, exec_of_commandError_eq_none hc, rfl, fun herr => absurd rfl herr⟩

/-- Settles O27, by the two ways an engine step completes. -/
theorem engineStepCompletes : Obligations.EngineStepCompletes := by
  intro s
  rcases engineStep_cases s with ⟨c, -, h⟩ | ⟨i, -, -, h⟩
  · exact ⟨_, h, rfl, rfl, rfl, rfl, rfl, Bool.and_true _, errNumber_le_four c,
      fun _ => raiseError_eq_failedWith c s⟩
  · exact ⟨_, h, rfl, rfl, rfl, rfl, rfl, Bool.and_true _, errNumber_le_four .success,
      fun herr => absurd rfl herr⟩

/-- Settles O39: with DONE and DONE_IE both set, IRQ falls exactly when one of them is cleared, and only the
four events clear one. -/
theorem interruptClearedOnlyByRule : Obligations.InterruptClearedOnlyByRule := by
  intro s t h hirq
  obtain ⟨hie, hdone⟩ := (irq_eq_true_iff s).mp hirq
  obtain ⟨-, haccept, hclear, hreset, hmoved⟩ := doneChangesOnlyByRule s t h
  rw [irq_eq_false_iff]
  constructor
  · rintro (hie' | hdone')
    · rcases step_doneIe_cases h with hm | ⟨w, hop⟩ | hsame
      · exact .inr (.inr (.inr hm))
      · exact .inr (.inr (.inl ⟨w, (step_enables h hop).symm.trans hie', hop⟩))
      · simp [hsame, hie] at hie'
    · rcases hmoved (by simp [hdone, hdone']) with ⟨hbusy, hm⟩ | hcmd | hstatus | hm
      · obtain ⟨-, hset, -⟩ := step_completes h hm hbusy
        simp [hset] at hdone'
      · exact .inr (.inl hcmd)
      · exact .inl hstatus
      · exact .inr (.inr (.inr hm))
  · rintro (⟨w, hw, hop⟩ | ⟨hidle, w, hop⟩ | ⟨w, hw, hop⟩ | hm)
    · exact .inr (hclear w hw hop)
    · exact .inr (haccept w hidle hop)
    · exact .inl ((step_enables h hop).trans hw)
    · exact .inr (hreset hm)

/-- Settles O40, by the kinds of step: only the host's records a fault. -/
theorem faultsAreNeverCleared : Obligations.FaultsAreNeverCleared := by
  intro s t h
  by_cases hsame : t.faults = s.faults
  · exact ⟨[], by rw [hsame, List.append_nil], fun hne => absurd rfl hne⟩
  rcases step_cases h with ⟨hm, rfl⟩ | ⟨-, -, rfl⟩ | ⟨-, -, c, -, rfl⟩ | ⟨-, -, i, -, -, rfl⟩ | ⟨-, rfl⟩
  · rcases hostStep_records (takeTurn s) with ⟨fs, hfaults, hhardware⟩ | hkept
    · exact ⟨fs, hfaults, fun _ => ⟨hm, hhardware⟩⟩
    · exact absurd hkept hsame
  · exact absurd rfl hsame
  · exact absurd rfl hsame
  · exact absurd rfl hsame
  · exact absurd (resetEvent_faults (takeTurn s)) hsame

/-- Settles O23: the key length is the first check. -/
theorem keyLengthError : Obligations.KeyLengthError :=
  fun _ => ⟨exec_of_keyLen_ne rfl, exec_of_keyLen_ne rfl⟩

end Sys2Proof.Proofs
end

section
/-! The reset event on a running command (R240, R242), what every offset reads after it (R195), and what a
write to a parameter register or to INT_EN leaves to a running command (R247). -/

namespace Sys2Proof.Proofs

open Sys2Proof Sys2Proof.Machine Sys2Proof.Claims

/-! ### A command that would pass its checks -/

/-- The model's checks pass exactly the commands that R216 lets pass. -/
theorem passes_iff (i : Instr) (s : State) : passes i s ↔
    latchedCommand s = .instr i ∧ commandError s.params (keyBytes i) s.lat = none := by
  constructor
  · rintro ⟨hi, hlen, hkey, hsrc, hdst, hapart⟩
    rw [hlen] at hkey hapart
    exact ⟨hi, commandError_eq_none_of_apart hlen hkey hsrc hdst hapart⟩
  · rintro ⟨hi, hnone⟩
    obtain ⟨hlen, hkey, hsrc, hdst, hdstKey, hdstSrc⟩ := (commandError_eq_none _ _ _).mp hnone
    refine ⟨hi, hlen, (admitted_iff_not_unadmitted _ _).mp hkey, (admitted_iff_not_unadmitted _ _).mp hsrc,
      (admitted_iff_not_unadmitted _ _).mp hdst, fun a ha => ⟨fun hin => ?_, fun hin => ?_⟩⟩
    · exact Bool.eq_false_iff.mp hdstKey (overlap_of_within (r := dstRange s.lat) ha hin)
    · exact Bool.eq_false_iff.mp hdstSrc (overlap_of_within (r := dstRange s.lat) ha hin)

theorem latchedPasses_iff_exists_passes (s : State) : latchedPasses s = true ↔ ∃ i, passes i s := by
  simp only [latchedPasses_iff, passes_iff]

/-! ### The reset event -/

theorem abandonCommand_of_passes {i : Instr} {s : State} (hbusy : s.seq = .busy) (h : passes i s) :
    abandonCommand s =
      { s with
        mem := writeBytes s.mem (dstRange s.lat).addr (drawnBytes s.draws (dstRange s.lat).len)
        draws := s.draws + (dstRange s.lat).len } := by
  rcases abandonCommand_cases s with ⟨-, hnot⟩ | ⟨-, -, heq⟩
  · exact absurd ⟨hbusy, (latchedPasses_iff_exists_passes s).mpr ⟨i, h⟩⟩ hnot
  · exact heq

theorem abandonCommand_of_not_passes {s : State} (h : ∀ i, ¬ passes i s) : abandonCommand s = s := by
  rcases abandonCommand_cases s with ⟨heq, -⟩ | ⟨-, hpass, -⟩
  · exact heq
  · obtain ⟨i, hi⟩ := (latchedPasses_iff_exists_passes s).mp hpass
    exact absurd hi (h i)

theorem abandonCommand_of_idle {s : State} (h : s.seq = .idle) : abandonCommand s = s := by
  rcases abandonCommand_cases s with ⟨heq, -⟩ | ⟨hbusy, -⟩
  · exact heq
  · simp [h] at hbusy

/-- A range filled with draws holds them in order from its first byte, and no other byte changes (R242). -/
theorem readByte_writeBytes_drawnBytes (m : List Host.Cell) (addr k n a : Nat) :
    (within addr n a → readByte (writeBytes m addr (drawnBytes k n)) a = Config.drawnByte (k + (a - addr))) ∧
      (¬ within addr n a → readByte (writeBytes m addr (drawnBytes k n)) a = readByte m a) := by
  rw [readByte_writeBytes, length_drawnBytes]
  constructor
  · rintro ⟨hle, hlt⟩
    rw [if_pos ⟨hle, hlt⟩, getD_drawnBytes n k (a - addr) (by omega)]
  · exact fun hout => if_neg hout

/-- With every flag clear and ERRCODE zero, STATUS and INT_EN read zero too (R25, R37). -/
theorem readReg_clearRegisters (r : Reg) (s : State) : readReg r (clearRegisters s) = 0 := by
  cases r with
  | status =>
    have hidle : busy (clearRegisters s) = false := rfl
    simp [readReg, statusWord, err, hidle]
  | intEn => simp [readReg, intEnWord]
  | cmd | keyAddr | keyLen | srcAddr | srcLen | dstAddr | outLen => rfl

/-- With the registers at their reset values every offset reads zero, reserved ones included (R38, R195). -/
theorem readOffset_clearRegisters (o : BitVec 6) (s : State) : readOffset o (clearRegisters s) = 0 := by
  rw [readOffset]
  split
  · exact readReg_clearRegisters _ s
  · rfl

/-! ### Register writes while a command runs -/

/-- The registers a command reads only when it is accepted (R31 to R35), and INT_EN. -/
def IsParameter (r : Reg) : Prop :=
  r = .keyAddr ∨ r = .keyLen ∨ r = .srcAddr ∨ r = .srcLen ∨ r = .dstAddr ∨ r = .intEn

/-- The latch keeps what it took from the registers (R39). -/
theorem writeReg_lat_of_isParameter {r : Reg} (hr : IsParameter r) (w : Word) (s : State) :
    (writeReg r w s).lat = s.lat := by
  rcases hr with rfl | rfl | rfl | rfl | rfl | rfl <;> rfl

theorem commandError_writeReg {r : Reg} (hr : IsParameter r) (w : Word) (s : State) (need : Nat) :
    commandError (writeReg r w s).params need (writeReg r w s).lat = commandError s.params need s.lat := by
  rw [writeReg_params, writeReg_lat_of_isParameter hr]

theorem raiseError_writeReg {r : Reg} (hr : IsParameter r) (w : Word) (s : State) (c : ErrCode) :
    raiseError c (writeReg r w s) = writeReg r w (raiseError c s) := by
  rcases hr with rfl | rfl | rfl | rfl | rfl | rfl <;> rfl

theorem succeeded_writeReg {r : Reg} (hr : IsParameter r) (w : Word) (s : State) (i : Instr) :
    succeeded i (writeReg r w s) = writeReg r w (succeeded i s) := by
  rcases hr with rfl | rfl | rfl | rfl | rfl | rfl <;> rfl

end Sys2Proof.Proofs
end

section
/-! The statements of the family 70_reset_and_hazards.md. -/

namespace Sys2Proof.Proofs

open Sys2Proof Sys2Proof.Machine Sys2Proof.Claims

/-- Settles O20: the model's checks are those of R216, and a store of draws fills the output range. -/
theorem resetAbandonsCommand : Obligations.ResetAbandonsCommand := by
  intro s hbusy
  refine ⟨fun i hpass => ?_, fun hfail => ?_⟩
  · rw [resetEvent, abandonCommand_of_passes hbusy hpass]
    exact ⟨rfl, readByte_writeBytes_drawnBytes s.mem (dstRange s.lat).addr s.draws (dstRange s.lat).len⟩
  · rw [resetEvent, abandonCommand_of_not_passes hfail, clearRegisters_mem]

/-- Settles O30: the write changes no check, and commutes with both ways the command can complete. -/
theorem parameterWritesLeaveRunningCommand : Obligations.ParameterWritesLeaveRunningCommand := by
  intro i s t r w hr h
  have hcheck := commandError_writeReg hr w s (keyBytes i)
  cases hc : commandError s.params (keyBytes i) s.lat with
  | some c =>
    obtain rfl : raiseError c s = t := by simpa [exec_of_commandError_eq_some hc] using h
    rw [exec_of_commandError_eq_some (hcheck.trans hc), raiseError_writeReg hr]
  | none =>
    obtain rfl : succeeded i s = t := by simpa [exec_of_commandError_eq_none hc] using h
    rw [exec_of_commandError_eq_none (hcheck.trans hc), succeeded_writeReg hr]

/-- Settles O18: the registers are cleared last, whatever becomes of the running command, and while IDLE
there is none. -/
theorem resetEventValues : Obligations.ResetEventValues := by
  intro s
  refine ⟨step_of_reset, rfl, rfl, rfl, rfl, rfl, rfl, rfl, rfl, rfl, rfl, rfl, rfl, rfl, resetEvent_faults s,
    resetEvent_params s, fun o => readOffset_clearRegisters o _, fun hidle => ?_⟩
  rw [resetEvent, abandonCommand_of_idle hidle, clearRegisters_mem]

/-- Settles O19: the state after reset has its registers at their reset values. -/
theorem powerOnState : Obligations.PowerOnState :=
  ⟨fun o => readOffset_clearRegisters o State.reset, rfl, rfl, rfl, rfl, rfl⟩

/-- Settles O34: memory is empty, the sequencer IDLE and every register zero. -/
theorem resetMeetsMachineInvariant : Obligations.ResetMeetsMachineInvariant where
  memCanonical := rfl
  errcodeKnown := Nat.zero_le 4
  outLenWhole := rfl
  outLenOnError := fun _ => rfl
  busyClear := nofun
  idleLatch := fun _ => rfl

end Sys2Proof.Proofs
end
